-- ==== Sys2Proof/Word.lean ====
section
/-! DEFINITION. The word types of the block and the complex pair (00_scope.md R7, R10, R14). -/

namespace Sys2Proof

/-- A byte, as BIT_OUT and GROUP_OUT carry it (10_state.md R45). -/
abbrev Byte := BitVec 8

/-- `u32`, and the register bus's data word (00_scope.md R5, R7). -/
abbrev Word := BitVec 32

/-- `f32`: the 32 bits of an IEEE 754 binary32 value (00_scope.md R10, 20_memory.md R62 b).
The arithmetic on it is in Machine/Float.lean. -/
abbrev F32 := BitVec 32

/-- A byte address of the register space (20_memory.md R60). -/
abbrev Addr := BitVec 12

/-- A transaction word `T[71:0]` (30_encoding.md R90). -/
abbrev TWord := BitVec 72

/-- A complex value `(I, Q)`, in-phase first (00_scope.md R14). -/
structure Cplx where
  i : F32
  q : F32
  deriving DecidableEq, Repr, Inhabited

end Sys2Proof
end

