-- ==== Sys2Proof/Config.lean ====
section
/-! DEFINITION. The implementation parameters (00_scope.md R5) and the free values
(93_implementation_defined.md): an `opaque` constant here has no value that a proof can see. -/

namespace Sys2Proof.Config

/-- Capacity of the tap RAM and of the matched-filter delay line (00_scope.md R5). DESIGN CHOICE [11]:
the model takes the default value. -/
abbrev mfMax : Nat := 64

/-- Largest legal EL_SPACING (00_scope.md R5). DESIGN CHOICE [11]. -/
abbrev elMax : Nat := 8

/-- Length of the interpolator delay line, `2·EL_MAX + 2` (00_scope.md R5). -/
abbrev dlLen : Nat := 2 * elMax + 2

/-- Largest legal unique-word length (00_scope.md R5). DESIGN CHOICE [11]. -/
abbrev uwMax : Nat := 64

/-- Capacity of the symbol accumulator, in bytes (00_scope.md R5). DESIGN CHOICE [11]. -/
abbrev groupMax : Nat := 8192

/-- `SPS_MAX` = 65536.0 (00_scope.md R5). -/
def spsMax : F32 := 0x47800000#32

/-- `ECLAMP_MAX` = 1000000.0 (00_scope.md R5). -/
def eclampMax : F32 := 0x49742400#32

/-- `LATENCY`, cycles from input to output: a parameter no rule reads (70_reset_and_hazards.md R296) [12]. -/
opaque latency : Nat

/-- `REG_BASE`, where a platform puts the register window: a parameter no rule reads (20_memory.md R70) [12]. -/
opaque regBase : Nat

/-- FREE VALUE [4]: the cosine half of `TRIG` before the laws of 00_scope.md R12 are imposed on it
(Machine/Float.lean imposes them). -/
opaque trigCos : BitVec 32 → BitVec 32

/-- FREE VALUE [4]: the sine half of `TRIG`, as `trigCos`. -/
opaque trigSin : BitVec 32 → BitVec 32

/-- FREE VALUE [5]: the bits of a NaN that an f32 operation produces inside a transaction
(93_implementation_defined.md I11); Machine/Float.lean bends it to be some NaN. -/
opaque arithNaN : BitVec 32

/-- FREE VALUE [5]: the bits of the n-th NaN that leaves on SYM_OUT (93_implementation_defined.md I10, I11);
applied to the counter `State.nanDraws`. -/
opaque freeNaN : Nat → BitVec 32

/-- FREE VALUE [6]: `Wrap` of an infinity or a NaN, which 00_scope.md R13 does not define. -/
opaque wrapNonFinite : BitVec 32 → BitVec 32

/-- FREE VALUE [7]: what a delay-line read past the line gives; no run reads there (41_demodulator.md R167). -/
opaque beyondLine : Nat → Cplx

end Sys2Proof.Config
end

