-- ==== Sys2Proof/Machine/Float.lean ====
section
/-! DEFINITION. binary32 arithmetic (00_scope.md R10), the helpers of R11, `TRIG` (R12) and `Wrap` (R13).

Every finite binary32 value is a whole number of UNITS of 2^-149. An operation takes its operands to exact whole numbers
of units, computes exactly, and rounds once to nearest, ties to even. The cases of infinities, NaN and signed zeros are
IEEE 754's own, which R10 cites. PRESUMED [14]. -/

namespace Sys2Proof.F32

/-! ### Fields and classes -/

/-- The magnitude bits 30:0 of +infinity; larger ones are NaN (20_memory.md R62 b). -/
def infMag : Nat := 0x7F800000

/-- Bits 30:0, as a number: exponent and fraction together. -/
def mag (x : F32) : Nat := x.toNat % 2 ^ 31

/-- Bit 31. -/
def sign (x : F32) : Bool := x.getLsbD 31

/-- Is `x` a NaN? -/
def isNaN (x : F32) : Bool := decide (infMag < mag x)

/-- Is `x` an infinity? -/
def isInf (x : F32) : Bool := decide (mag x = infMag)

/-- `isFinite(x)` of 00_scope.md R11. -/
def isFinite (x : F32) : Bool := decide (mag x < infMag)

/-- Is `x` +0.0 or -0.0? -/
def isZero (x : F32) : Bool := decide (mag x = 0)

/-- The word with sign bit `neg` and magnitude bits `m`. -/
def pack (neg : Bool) (m : Nat) : F32 := BitVec.ofNat 32 ((if neg then 2 ^ 31 else 0) + m)

/-! ### The literals the rules use -/

/-- +0.0 -/
def zero : F32 := 0x00000000#32
/-- 0.5 -/
def half : F32 := 0x3F000000#32
/-- 1.0 -/
def one : F32 := 0x3F800000#32
/-- -1.0 -/
def negOne : F32 := 0xBF800000#32
/-- 2.0 -/
def two : F32 := 0x40000000#32
/-- 4.0 -/
def four : F32 := 0x40800000#32
/-- `PI_F` (00_scope.md R13). -/
def piF : F32 := 0x40490FDB#32
/-- `TWO_PI_F` (00_scope.md R13). -/
def twoPiF : F32 := 0x40C90FDB#32

/-! ### Exact values and rounding -/

/-- The exact magnitude, in units of 2^-149, that magnitude bits `m` stand for. (Infinity comes out as the next whole
number above every finite value, which is what the comparisons need.) -/
def magUnits (m : Nat) : Nat :=
  if m < 2 ^ 23 then m else (2 ^ 23 + m % 2 ^ 23) * 2 ^ (m / 2 ^ 23 - 1)

/-- The exact value of a number that is not NaN, in units of 2^-149; both zeros are 0. -/
def units (x : F32) : Int :=
  if sign x then - (magUnits (mag x) : Int) else (magUnits (mag x) : Int)

/-- `n / d` rounded to a whole number, ties to even. -/
def roundHalfEven (n d : Nat) : Nat :=
  if 2 * (n % d) < d ∨ (2 * (n % d) = d ∧ n / d % 2 = 0) then n / d else n / d + 1

/-- The binade step of the magnitude `num / den` units: values there are multiples of `2 ^ k` units. -/
def roundStep (num den : Nat) : Nat := Nat.log2 (num / den) - 23

/-- The magnitude bits of `num / den` units rounded to binary32 with roundTiesToEven: the exponent and the rounded
significand add up so that a carry moves to the next binade, and what lies past the largest finite value is infinity. -/
def roundMag (num den : Nat) : Nat :=
  min (roundStep num den * 2 ^ 23 + roundHalfEven num (den * 2 ^ roundStep num den)) infMag

/-- A whole number of units rounded to binary32. An exact zero is +0.0. -/
def ofUnits (n : Int) : F32 := pack (decide (n < 0)) (roundMag n.natAbs 1)

/-- `raw` where it is a NaN, else one that is. Every NaN is `nanOf` of itself. -/
def nanOf (raw : F32) : F32 := if isNaN raw then raw else 0x7FC00000#32

/-- A NaN that an operation produces: its payload and sign are free (93_implementation_defined.md I11) [5]. -/
def nan : F32 := nanOf Config.arithNaN

/-! ### Operations (00_scope.md R10) -/

/-- Unary `-x`: flips the sign bit. -/
def neg (x : F32) : F32 := x ^^^ 0x80000000#32

/-- `a + b`. -/
def add (a b : F32) : F32 :=
  if isNaN a || isNaN b then nan
  else if isInf a then (if isInf b && sign a != sign b then nan else a)
  else if isInf b then b
  else if units a + units b = 0 then pack (sign a && sign b) 0
  else ofUnits (units a + units b)

/-- `a - b`. -/
def sub (a b : F32) : F32 := add a (neg b)

/-- `a * b`. -/
def mul (a b : F32) : F32 :=
  if isNaN a || isNaN b then nan
  else if isInf a || isInf b then (if isZero a || isZero b then nan else pack (sign a != sign b) infMag)
  else pack (sign a != sign b) (roundMag (magUnits (mag a) * magUnits (mag b)) (2 ^ 149))

/-- `a / b`. -/
def div (a b : F32) : F32 :=
  if isNaN a || isNaN b then nan
  else if isInf a then (if isInf b then nan else pack (sign a != sign b) infMag)
  else if isInf b then pack (sign a != sign b) 0
  else if isZero b then (if isZero a then nan else pack (sign a != sign b) infMag)
  else pack (sign a != sign b) (roundMag (magUnits (mag a) * 2 ^ 149) (magUnits (mag b)))

/-- `f32i(n)`: exact for `n <= 2^24`. -/
def ofNat (n : Nat) : F32 := pack false (roundMag (n * 2 ^ 149) 1)

/-- `a < b`: false when either is NaN; `-0.0 == +0.0`. -/
def lt (a b : F32) : Bool := !isNaN a && !isNaN b && decide (units a < units b)

/-- `a <= b`: false when either is NaN. -/
def le (a b : F32) : Bool := !isNaN a && !isNaN b && decide (units a ≤ units b)

/-! ### Helpers (00_scope.md R11) -/

/-- `ClampF(x, lo, hi)`: one of its three arguments, unchanged. -/
def clamp (x lo hi : F32) : F32 := if lt x lo then lo else if lt hi x then hi else x

/-- `Fin0(x)`. -/
def fin0 (x : F32) : F32 := if isFinite x then x else zero

/-- Is `lo <= x <= hi`, with the bounds' own comparisons? -/
def within (x lo hi : F32) : Bool := le lo x && le x hi

/-! ### TRIG (00_scope.md R12) -/

/-- `raw` where it is finite and in [-1.0, 1.0], else 1.0: law (b). Every lawful value is `unitOf` of itself. -/
def unitOf (raw : F32) : F32 := if mag raw ≤ mag one then raw else one

/-- `TRIG(theta) = (c, s)`: any function obeying the laws (a) to (c) of R12, since the two free functions of Config
are bent to the laws and otherwise unknown [4]. The first component is the cosine. -/
def trig (theta : F32) : F32 × F32 :=
  if isZero theta then (one, zero) else (unitOf (Config.trigCos theta), unitOf (Config.trigSin theta))

/-! ### Wrap (00_scope.md R13) -/

/-- The exact remainder of `x` units in [-PI_F, PI_F): `x - k*TWO_PI_F` for the one whole number `k` that brings it
there. -/
def wrapUnits (x : Int) : Int := (x + units piF) % units twoPiF - units piF

/-- `Wrap(x)`. A remainder of exactly zero gives +0.0 (DEDUCED [13]); a non-finite `x` gives a free value [6]. -/
def wrap (x : F32) : F32 :=
  if !isFinite x then Config.wrapNonFinite x
  else if le (neg piF) x && lt x piF then x
  else
    let r := ofUnits (wrapUnits (units x))
    if r = piF then neg piF else r

end Sys2Proof.F32
end

