-- ==== Sys2Proof/Syntax.lean ====
section
/-! DEFINITION. The transactions of the block: one constructor per row of spec/opcode_table.json
(30_encoding.md R91, R95, R96). -/

namespace Sys2Proof

/-- A transaction, as `Decode` of 30_encoding.md R96 returns it. -/
inductive Instr where
  /-- `SAMPLE(I, Q)`, 41_demodulator.md R160. -/
  | sample (i q : F32)
  /-- `WRITE(addr, data)`, 40_control.md R120; `addr` is not 0x000 in a well-formed one. -/
  | write (addr : Addr) (data : Word)
  /-- `READ(addr)`, 40_control.md R121. -/
  | read (addr : Addr)
  /-- `CTRL_NONE(clr)`, 40_control.md R124. -/
  | ctrlNone (clr : Bool)
  /-- `CTRL_START(clr)`, 40_control.md R126. -/
  | ctrlStart (clr : Bool)
  /-- `CTRL_STOP(clr)`, 40_control.md R125. -/
  | ctrlStop (clr : Bool)
  /-- `CTRL_RSVD(clr)`, 40_control.md R131. -/
  | ctrlRsvd (clr : Bool)
  deriving DecidableEq, Repr

end Sys2Proof
end

