-- ==== Sys2Proof/WellFormed.lean ====
section
/-! DEFINITION. Which transactions an encoding exists for. -/

namespace Sys2Proof

/-- A WRITE to address 0x000 is no WRITE: it is a CTRL command (30_encoding.md R95, opcode_table.json's note on the
WRITE row). Every other transaction is well formed with every operand, since the operand types have the widths of the
encoding's fields. -/
def Instr.wf : Instr → Bool
  | .sample _ _ => true
  | .write addr _ => addr != 0#12
  | .read _ => true
  | .ctrlNone _ => true
  | .ctrlStart _ => true
  | .ctrlStop _ => true
  | .ctrlRsvd _ => true

end Sys2Proof
end

