-- ==== Sys2Proof/Decode.lean ====
section
/-! DEFINITION. Decoding of the 72-bit transaction word (30_encoding.md R90 to R101), the encoder, and the opcode
table's match/mask rows. -/

namespace Sys2Proof

/-- Why a word is invalid (30_encoding.md R98), by the field that makes it so. -/
inductive DecodeError where
  /-- KIND outside 0x01, 0x02, 0x03. -/
  | badKind
  /-- A WRITE with `T[63:44] != 0`. -/
  | writeHiNonzero
  /-- A READ with `T[63:44] != 0`. -/
  | readHiNonzero
  /-- A READ with `T[63:44] = 0` and `T[31:0] != 0`. -/
  | readDataNonzero
  deriving DecidableEq, Repr

/-- `T[71:64]` (30_encoding.md R90). -/
def kindOf (t : TWord) : BitVec 8 := t.extractLsb' 64 8

/-- `T[63:44]` (30_encoding.md R90). -/
def hiOf (t : TWord) : BitVec 20 := t.extractLsb' 44 20

/-- `T[43:32]` (30_encoding.md R90). -/
def addrOf (t : TWord) : Addr := t.extractLsb' 32 12

/-- `T[31:0]` (30_encoding.md R90). -/
def dataOf (t : TWord) : Word := t.extractLsb' 0 32

/-- `T[63:32]`, the quadrature bits of a SAMPLE (30_encoding.md R92). -/
def quadOf (t : TWord) : F32 := t.extractLsb' 32 32

/-- `CMD = DATA[1:0]` (30_encoding.md R95). -/
def cmdOf (data : Word) : BitVec 2 := data.extractLsb' 0 2

/-- `CLR = DATA[4]` (30_encoding.md R95). -/
def clrOf (data : Word) : Bool := data.getLsbD 4

/-- The CTRL command in a WRITE's data (30_encoding.md R95, R96); bits 3:2 and 31:5 are ignored (R99). -/
def decodeCtrl (data : Word) : Instr :=
  if cmdOf data = 0#2 then .ctrlNone (clrOf data)
  else if cmdOf data = 1#2 then .ctrlStart (clrOf data)
  else if cmdOf data = 2#2 then .ctrlStop (clrOf data)
  else .ctrlRsvd (clrOf data)

/-- `Decode(T)` of 30_encoding.md R96, with INVALID told apart by field. -/
def decode (t : TWord) : Except DecodeError Instr :=
  if kindOf t = 0x01#8 then .ok (.sample (dataOf t) (quadOf t))
  else if kindOf t = 0x02#8 then
    if hiOf t ≠ 0#20 then .error .writeHiNonzero
    else if addrOf t = 0x000#12 then .ok (decodeCtrl (dataOf t))
    else .ok (.write (addrOf t) (dataOf t))
  else if kindOf t = 0x03#8 then
    if hiOf t ≠ 0#20 then .error .readHiNonzero
    else if dataOf t ≠ 0#32 then .error .readDataNonzero
    else .ok (.read (addrOf t))
  else .error .badKind

/-- The four fields of 30_encoding.md R90 put together. -/
def assembleWord (kind : BitVec 8) (hi : BitVec 20) (addr : Addr) (data : Word) : TWord :=
  (kind ++ hi ++ addr ++ data : BitVec (8 + 20 + 12 + 32))

/-- The DATA of a CTRL command with the ignored bits written as 0 (20_memory.md R81). -/
def ctrlData (cmd : BitVec 2) (clr : Bool) : Word :=
  (0#27 ++ BitVec.ofBool clr ++ 0#2 ++ cmd : BitVec (27 + 1 + 2 + 2))

/-- The word of a transaction (30_encoding.md R92 to R95). -/
def encode : Instr → TWord
  | .sample i q => (0x01#8 ++ q ++ i : BitVec (8 + 32 + 32))
  | .write addr data => assembleWord 0x02#8 0#20 addr data
  | .read addr => assembleWord 0x03#8 0#20 addr 0#32
  | .ctrlNone clr => assembleWord 0x02#8 0#20 0#12 (ctrlData 0#2 clr)
  | .ctrlStart clr => assembleWord 0x02#8 0#20 0#12 (ctrlData 1#2 clr)
  | .ctrlStop clr => assembleWord 0x02#8 0#20 0#12 (ctrlData 2#2 clr)
  | .ctrlRsvd clr => assembleWord 0x02#8 0#20 0#12 (ctrlData 3#2 clr)

/-- One row of spec/opcode_table.json: a word belongs to it when it equals `pattern` under `mask`. -/
structure OpcodeRow where
  mnemonic : String
  pattern : TWord
  mask : TWord
  deriving DecidableEq, Repr

/-- Does the word match the row? -/
def OpcodeRow.covers (r : OpcodeRow) (t : TWord) : Bool := t &&& r.mask == r.pattern

/-- The opcode table, the more specific CTRL rows before the WRITE row they take priority over
(30_encoding.md R96, opcode_table.json). -/
def opcodeRows : List OpcodeRow :=
  [⟨"SAMPLE", 0x010000000000000000#72, 0xFF0000000000000000#72⟩,
   ⟨"CTRL_NONE", 0x020000000000000000#72, 0xFFFFFFFFFF00000003#72⟩,
   ⟨"CTRL_START", 0x020000000000000001#72, 0xFFFFFFFFFF00000003#72⟩,
   ⟨"CTRL_STOP", 0x020000000000000002#72, 0xFFFFFFFFFF00000003#72⟩] ++
  [⟨"CTRL_RSVD", 0x020000000000000003#72, 0xFFFFFFFFFF00000003#72⟩,
   ⟨"WRITE", 0x020000000000000000#72, 0xFFFFFFF00000000000#72⟩,
   ⟨"READ", 0x030000000000000000#72, 0xFFFFFFF000FFFFFFFF#72⟩]

/-- The table's name for a word: the first row that covers it. -/
def tableMnemonic (t : TWord) : Option String :=
  (opcodeRows.find? fun r => r.covers t).map OpcodeRow.mnemonic

/-- The table's name for a transaction (spec/opcode_table.json). -/
def Instr.mnemonic : Instr → String
  | .sample _ _ => "SAMPLE"
  | .write _ _ => "WRITE"
  | .read _ => "READ"
  | .ctrlNone _ => "CTRL_NONE"
  | .ctrlStart _ => "CTRL_START"
  | .ctrlStop _ => "CTRL_STOP"
  | .ctrlRsvd _ => "CTRL_RSVD"

/-- The transaction the decoder reads from the table's numbering of bits, which is that of `T[71:0]`
(opcode_table.json): none where the decoder refuses the word, or where the number has a bit above 71. -/
def decodeTableWord (nbits w : Nat) : Option Instr :=
  if w % 2 ^ nbits < 2 ^ 72 then (decode (BitVec.ofNat 72 (w % 2 ^ nbits))).toOption else none

end Sys2Proof
end

