-- ==== Sys2Proof/Machine/State.lean ====
section
/-! DEFINITION. Everything the block holds (10_state.md), the ports' presented values, the reasons a step can stop, and
the state after power-on reset (10_state.md R49). -/

namespace Sys2Proof.Machine

/-- Why the block stops with a fault: never. 60_exceptions.md R255: "No transaction traps, faults or aborts", so no
constructor exists [10]. -/
inductive Fault where
  deriving DecidableEq, Repr

/-- Why a step has no meaning. -/
inductive Refusal where
  /-- An arm of `exec` without a meaning. No arm is one. Safe: the run stops where the block goes on. -/
  | notModelled (mnemonic : String)
  /-- Raised by `step` alone, for a word that is no transaction (30_encoding.md R98: "A model refuses it"). Safe: the
  physical ports have no such bits, and no claim can be made about such a word [9]. -/
  | invalidWord (why : DecodeError)
  deriving DecidableEq, Repr

/-- `CFG.*`: what the host last wrote (10_state.md R22 to R24). -/
structure CfgRegs where
  sampleRate : F32
  symbolRate : F32
  filterSpan : Word
  loopMu : F32
  loopOmega : F32
  initFreq : F32
  freqLimit : F32
  timMu : F32
  timOmega : F32
  timLimit : F32
  elSpacing : Word
  errClamp : F32
  uwLen : Word
  uwThresh : Word
  unlockN : Word
  seK : F32
  groupSize : Word
  uwPatLo : Word
  uwPatHi : Word
  h : Vector F32 Config.mfMax
  deriving DecidableEq, Repr

/-- `UW_PAT = {UW_PAT_HI, UW_PAT_LO}` (20_memory.md R84). -/
def CfgRegs.uwPat (c : CfgRegs) : BitVec 64 := c.uwPatHi ++ c.uwPatLo

/-- `A.*`: the configuration the datapath reads, with the values derived at START (10_state.md R22). -/
structure Active where
  regs : CfgRegs
  sps : F32
  tq : F32
  tmin : F32
  tmax : F32
  rlim : F32
  maskN : BitVec 64
  nf : F32
  deriving DecidableEq, Repr

/-- The five status events of 60_exceptions.md R252. -/
inductive StatusEvent where
  | nfIn
  | nfMf
  | nfErr
  | badCmd
  | badAccess
  deriving DecidableEq, Repr

/-- An event on an output port (10_state.md R45). -/
inductive OutEvent where
  | symOut (i q : F32)
  | bitOut (b : Byte)
  | groupOut (bytes : List Byte)
  deriving DecidableEq, Repr

/-- What the outside world presents next (10_state.md R46): a transaction word, or the power-on reset input. -/
inductive Input where
  | word (t : TWord)
  | powerOn
  deriving DecidableEq, Repr

/-- What the latest step answered to the agent that presented the transaction (00_scope.md R18). -/
inductive Result where
  /-- No transaction was performed. -/
  | idle
  /-- The transaction was performed and has no response word. -/
  | done
  /-- The response word of a READ (40_control.md R121). -/
  | response (w : Word)
  /-- `NOT_ACCEPTED`: the sample stays with its producer (41_demodulator.md R161). -/
  | notAccepted
  deriving DecidableEq, Repr

/-- The state of the block (10_state.md R20), the presented values of its ports, and the counter of free NaN patterns. -/
structure State where
  cfg : CfgRegs
  act : Active
  run : Bool
  cfgErr : Bool
  cfgCode : BitVec 4
  nfIn : Bool
  nfMf : Bool
  nfErr : Bool
  badCmd : Bool
  badAccess : Bool
  xl : Vector Cplx Config.mfMax
  dl : Vector Cplx Config.dlLen
  theta : F32
  nu : F32
  tacc : F32
  tau : F32
  mufrac : F32
  wreg : BitVec 64
  fill : BitVec 7
  miss : BitVec 32
  sync : Bool
  pol : Bool
  stderr : F32
  pkCount : BitVec 13
  /-- `S.PK_BUF[0 .. PK_COUNT-1]`, oldest first; entries above hold no value (10_state.md R40) [8]. -/
  pkBuf : List Byte
  /-- The inputs still to be presented, next first: the total order of 20_memory.md R72 [1]. -/
  inbox : List Input
  /-- The events the latest step presented, in order (20_memory.md R78) [2]. -/
  events : List OutEvent
  result : Result
  /-- THE MODEL'S OWN [5]: how many free NaN patterns SYM_OUT has drawn. -/
  nanDraws : Nat
  deriving DecidableEq, Repr

/-- Every `CFG.*` register and tap at 0x00000000 (10_state.md R49). -/
def CfgRegs.reset : CfgRegs where
  sampleRate := 0#32
  symbolRate := 0#32
  filterSpan := 0#32
  loopMu := 0#32
  loopOmega := 0#32
  initFreq := 0#32
  freqLimit := 0#32
  timMu := 0#32
  timOmega := 0#32
  timLimit := 0#32
  elSpacing := 0#32
  errClamp := 0#32
  uwLen := 0#32
  uwThresh := 0#32
  unlockN := 0#32
  seK := 0#32
  groupSize := 0#32
  uwPatLo := 0#32
  uwPatHi := 0#32
  h := Vector.replicate Config.mfMax 0#32

/-- Every `A.*` field at zero bits (10_state.md R25, R49). -/
def Active.reset : Active where
  regs := CfgRegs.reset
  sps := 0#32
  tq := 0#32
  tmin := 0#32
  tmax := 0#32
  rlim := 0#32
  maskN := 0#64
  nf := 0#32

/-- The power-on reset state (10_state.md R49, 70_reset_and_hazards.md R280), with nothing presented and the
model's counter at 0 (DESIGN CHOICE [5]). -/
def State.reset : State where
  cfg := CfgRegs.reset
  act := Active.reset
  run := false
  cfgErr := false
  cfgCode := 0#4
  nfIn := false
  nfMf := false
  nfErr := false
  badCmd := false
  badAccess := false
  xl := Vector.replicate Config.mfMax ⟨0#32, 0#32⟩
  dl := Vector.replicate Config.dlLen ⟨0#32, 0#32⟩
  theta := 0#32
  nu := 0#32
  tacc := 0#32
  tau := 0#32
  mufrac := 0#32
  wreg := 0#64
  fill := 0#7
  miss := 0#32
  sync := false
  pol := false
  stderr := 0x3F000000#32
  pkCount := 0#13
  pkBuf := []
  inbox := []
  events := []
  result := .idle
  nanDraws := 0

end Sys2Proof.Machine
end

