-- ==== Sys2Proof/Machine/Flags.lean ====
section
/-! DEFINITION. Status: raising and clearing the sticky events (60_exceptions.md R250 to R252) and the STATUS word
(20_memory.md R80). Raising an event is all the block has in place of taking an exception (60_exceptions.md R255). -/

namespace Sys2Proof.Machine

/-- `raise E()`: sets the sticky bit of `E` to 1 and changes nothing else (60_exceptions.md R250). -/
def raise (e : StatusEvent) (s : State) : State :=
  match e with
  | .nfIn => { s with nfIn := true }
  | .nfMf => { s with nfMf := true }
  | .nfErr => { s with nfErr := true }
  | .badCmd => { s with badCmd := true }
  | .badAccess => { s with badAccess := true }

/-- `if c: raise E()`. -/
def raiseIf (c : Bool) (e : StatusEvent) (s : State) : State := if c then raise e s else s

/-- `ClearSticky` (40_control.md R123). -/
def clearSticky (s : State) : State :=
  { s with nfIn := false, nfMf := false, nfErr := false, badCmd := false, badAccess := false }

/-- `if data[4] == 1: ClearSticky()`, before the command acts (40_control.md R122). -/
def clearIf (clr : Bool) (s : State) : State := if clr then clearSticky s else s

/-- The value of STATUS (20_memory.md R80). -/
def statusWord (s : State) : Word :=
  (0#19 ++ BitVec.ofBool s.badAccess ++ BitVec.ofBool s.badCmd ++ BitVec.ofBool s.nfErr ++ BitVec.ofBool s.nfMf
    ++ BitVec.ofBool s.nfIn ++ s.cfgCode ++ BitVec.ofBool s.cfgErr ++ BitVec.ofBool s.pol ++ BitVec.ofBool s.sync
    ++ BitVec.ofBool s.run : BitVec (19 + 1 + 1 + 1 + 1 + 1 + 4 + 1 + 1 + 1 + 1))

/-- `popcount(v)` (00_scope.md R7). -/
def popcount (v : BitVec 64) : Nat := (List.range 64).countP fun i => v.getLsbD i

/-- The sticky bit of an event (10_state.md R28). -/
def sticky (e : StatusEvent) (s : State) : Bool :=
  match e with
  | .nfIn => s.nfIn
  | .nfMf => s.nfMf
  | .nfErr => s.nfErr
  | .badCmd => s.badCmd
  | .badAccess => s.badAccess

end Sys2Proof.Machine
end

