-- ==== Sys2Proof/Machine/Operands.lean ====
section
/-! DEFINITION. What an address names (20_memory.md R60 to R65, R80 to R86) and how a register is read and stored. -/

namespace Sys2Proof.Machine

/-- A register of the map (20_memory.md R64), under the spec's name. -/
inductive Reg where
  | ctrl
  | status
  | stderr
  | sampleRate
  | symbolRate
  | filterSpan
  | loopMu
  | loopOmega
  | initFreq
  | freqLimit
  | timMu
  | timOmega
  | timLimit
  | elSpacing
  | errClamp
  | uwLen
  | uwThresh
  | unlockN
  | seK
  | groupSize
  | uwPatLo
  | uwPatHi
  | theta
  | nu
  | tacc
  | tau
  | mufrac
  | fill
  | miss
  | pkCount
  | wregLo
  | wregHi
  | h (k : Fin Config.mfMax)
  deriving DecidableEq, Repr

/-- Access classes (20_memory.md R65). -/
inductive Access where
  | rw
  | ro
  | wo
  deriving DecidableEq, Repr

/-- The rows of the register map below 0x400 (20_memory.md R64). -/
def regRows : List (Nat × Reg) :=
  [(0x000, .ctrl), (0x004, .status), (0x008, .stderr)] ++
  [(0x010, .sampleRate), (0x014, .symbolRate), (0x018, .filterSpan), (0x01C, .loopMu), (0x020, .loopOmega),
   (0x024, .initFreq), (0x028, .freqLimit), (0x02C, .timMu), (0x030, .timOmega), (0x034, .timLimit)] ++
  [(0x038, .elSpacing), (0x03C, .errClamp), (0x040, .uwLen), (0x044, .uwThresh), (0x048, .unlockN), (0x04C, .seK),
   (0x050, .groupSize), (0x054, .uwPatLo), (0x058, .uwPatHi)] ++
  [(0x080, .theta), (0x084, .nu), (0x088, .tacc), (0x08C, .tau), (0x090, .mufrac), (0x094, .fill), (0x098, .miss),
   (0x09C, .pkCount), (0x0A0, .wregLo), (0x0A4, .wregHi)]

/-- The register at an aligned, mapped byte address; none where the address is misaligned or unmapped
(20_memory.md R63, R64): every mapped address is a multiple of 4. The taps are at `0x400 + 4k`. -/
def regAt (addr : Addr) : Option Reg :=
  let a := addr.toNat
  if a < 0x400 then regRows.lookup a
  else if h : a % 4 = 0 ∧ (a - 0x400) / 4 < Config.mfMax then some (.h ⟨(a - 0x400) / 4, h.2⟩)
  else none

/-- The byte address of a register (20_memory.md R64). -/
def Reg.addr : Reg → Addr
  | .ctrl => 0x000#12
  | .status => 0x004#12
  | .stderr => 0x008#12
  | .sampleRate => 0x010#12
  | .symbolRate => 0x014#12
  | .filterSpan => 0x018#12
  | .loopMu => 0x01C#12
  | .loopOmega => 0x020#12
  | .initFreq => 0x024#12
  | .freqLimit => 0x028#12
  | .timMu => 0x02C#12
  | .timOmega => 0x030#12
  | .timLimit => 0x034#12
  | .elSpacing => 0x038#12
  | .errClamp => 0x03C#12
  | .uwLen => 0x040#12
  | .uwThresh => 0x044#12
  | .unlockN => 0x048#12
  | .seK => 0x04C#12
  | .groupSize => 0x050#12
  | .uwPatLo => 0x054#12
  | .uwPatHi => 0x058#12
  | .theta => 0x080#12
  | .nu => 0x084#12
  | .tacc => 0x088#12
  | .tau => 0x08C#12
  | .mufrac => 0x090#12
  | .fill => 0x094#12
  | .miss => 0x098#12
  | .pkCount => 0x09C#12
  | .wregLo => 0x0A0#12
  | .wregHi => 0x0A4#12
  | .h k => BitVec.ofNat 12 (0x400 + 4 * k.val)

/-- The access class of a register (20_memory.md R64). -/
def Reg.access : Reg → Access
  | .ctrl => .wo
  | .status | .stderr => .ro
  | .theta | .nu | .tacc | .tau | .mufrac | .fill | .miss | .pkCount | .wregLo | .wregHi => .ro
  | .sampleRate | .symbolRate | .filterSpan | .loopMu | .loopOmega | .initFreq | .freqLimit | .timMu | .timOmega
  | .timLimit | .elSpacing | .errClamp | .uwLen | .uwThresh | .unlockN | .seK | .groupSize | .uwPatLo | .uwPatHi
  | .h _ => .rw

/-- The value a READ of a register returns (20_memory.md R64 to R66, R80, R85). CTRL reads as 0. -/
def readReg (r : Reg) (s : State) : Word :=
  match r with
  | .ctrl => 0#32
  | .status => statusWord s
  | .stderr => s.stderr
  | .sampleRate => s.cfg.sampleRate
  | .symbolRate => s.cfg.symbolRate
  | .filterSpan => s.cfg.filterSpan
  | .loopMu => s.cfg.loopMu
  | .loopOmega => s.cfg.loopOmega
  | .initFreq => s.cfg.initFreq
  | .freqLimit => s.cfg.freqLimit
  | .timMu => s.cfg.timMu
  | .timOmega => s.cfg.timOmega
  | .timLimit => s.cfg.timLimit
  | .elSpacing => s.cfg.elSpacing
  | .errClamp => s.cfg.errClamp
  | .uwLen => s.cfg.uwLen
  | .uwThresh => s.cfg.uwThresh
  | .unlockN => s.cfg.unlockN
  | .seK => s.cfg.seK
  | .groupSize => s.cfg.groupSize
  | .uwPatLo => s.cfg.uwPatLo
  | .uwPatHi => s.cfg.uwPatHi
  | .theta => s.theta
  | .nu => s.nu
  | .tacc => s.tacc
  | .tau => s.tau
  | .mufrac => s.mufrac
  | .fill => s.fill.zeroExtend 32
  | .miss => s.miss
  | .pkCount => s.pkCount.zeroExtend 32
  | .wregLo => s.wreg.extractLsb' 0 32
  | .wregHi => s.wreg.extractLsb' 32 32
  | .h k => s.cfg.h[k]

/-- `store v in the RW register` (20_memory.md R65, R67): all 32 bits verbatim, in `CFG.*` alone. Registers that are
not RW store nothing. -/
def storeCfg (r : Reg) (v : Word) (c : CfgRegs) : CfgRegs :=
  match r with
  | .sampleRate => { c with sampleRate := v }
  | .symbolRate => { c with symbolRate := v }
  | .filterSpan => { c with filterSpan := v }
  | .loopMu => { c with loopMu := v }
  | .loopOmega => { c with loopOmega := v }
  | .initFreq => { c with initFreq := v }
  | .freqLimit => { c with freqLimit := v }
  | .timMu => { c with timMu := v }
  | .timOmega => { c with timOmega := v }
  | .timLimit => { c with timLimit := v }
  | .elSpacing => { c with elSpacing := v }
  | .errClamp => { c with errClamp := v }
  | .uwLen => { c with uwLen := v }
  | .uwThresh => { c with uwThresh := v }
  | .unlockN => { c with unlockN := v }
  | .seK => { c with seK := v }
  | .groupSize => { c with groupSize := v }
  | .uwPatLo => { c with uwPatLo := v }
  | .uwPatHi => { c with uwPatHi := v }
  | .h k => { c with h := c.h.set k v }
  | .ctrl | .status | .stderr | .theta | .nu | .tacc | .tau | .mufrac | .fill | .miss | .pkCount | .wregLo
  | .wregHi => c

/-- A delay line after `x` enters as its newest entry and the oldest is dropped (41_demodulator.md R163, R166). -/
def shiftIn {n : Nat} (entries : Vector Cplx n) (x : Cplx) : Vector Cplx n :=
  Vector.ofFn fun k => if k.val = 0 then x else entries[k.val - 1]

/-- Entry `k` of a delay line. Past the line there is no entry, and the value is free [7]. -/
def lineAt {n : Nat} (entries : Vector Cplx n) (k : Nat) : Cplx :=
  if h : k < n then entries[k] else Config.beyondLine k

/-- Is neither component an infinity or a NaN? (41_demodulator.md R162, R165) -/
def finiteC (x : Cplx) : Bool := F32.isFinite x.i && F32.isFinite x.q

/-- `(Fin0(I), Fin0(Q))` (41_demodulator.md R162, R165): each component on its own. -/
def fin0C (x : Cplx) : Cplx := ⟨F32.fin0 x.i, F32.fin0 x.q⟩

end Sys2Proof.Machine
end

