-- ==== Sys2Proof/Machine/Ops.lean ====
section
/-! DEFINITION. The operations the transactions share: presenting outputs, the register bus's read, discarding the
partial group, and what a step does with the next presented input. -/

namespace Sys2Proof.Machine

/-- `emit P(values)` (00_scope.md R9): one more event, after those this transaction already presented
(20_memory.md R78). -/
def emit (e : OutEvent) (s : State) : State := { s with events := s.events ++ [e] }

/-- The answer to the presenting agent (00_scope.md R18). -/
def answer (r : Result) (s : State) : State := { s with result := r }

/-- `S.PK_COUNT <- 0` with no entry live any more (10_state.md R40, 43_symbol_packer.md R234) [8]. -/
def discardGroup (s : State) : State := { s with pkCount := 0#13, pkBuf := [] }

/-- `MemRead(addr, 4)` (20_memory.md R66): the response word and the state after. -/
def memRead (addr : Addr) (s : State) : Word × State :=
  match regAt addr with
  | none => (0#32, raise .badAccess s)
  | some r => (readReg r s, s)

/-- The component of a SYM_OUT payload that draw `n` presents: a number as it is; a NaN with free payload and sign
(41_demodulator.md R180, 93_implementation_defined.md I10, I11) [5]. -/
def present (n : Nat) (x : F32) : F32 := if F32.isNaN x then F32.nanOf (Config.freeNaN n) else x

/-- `emit SYM_OUT(I, Q)` (41_demodulator.md R180), with two draws of the free NaN patterns [5]. -/
def emitSymbol (y : Cplx) (s : State) : State :=
  { emit (.symOut (present s.nanDraws y.i) (present (s.nanDraws + 1) y.q)) s with nanDraws := s.nanDraws + 2 }

/-! ### Ports (10_state.md R45, R46) -/

/-- The SYNC status output. -/
def syncPort (s : State) : Bool := s.sync

/-- The STDERR status output. -/
def stderrPort (s : State) : F32 := s.stderr

/-- RUN, shown continuously (60_exceptions.md R257). -/
def runPort (s : State) : Bool := s.run

/-- The sample port's ready: a sample is accepted only while running (41_demodulator.md R161). -/
def sampleReady (s : State) : Bool := s.run

/-! ### The next input (20_memory.md R72) [1] -/

/-- Nothing is presented: the block holds its state and presents nothing. -/
def idleStep (s : State) : State := { s with events := [], result := .idle }

/-- The transaction at the head of the inbox is taken; its events and answer start from none. -/
def takeWord (rest : List Input) (s : State) : State := { s with inbox := rest, events := [], result := .done }

/-- The power-on reset input (70_reset_and_hazards.md R280): every state field takes its reset value and no event is
emitted. What the world presents later, and the model's own counter, are no state of the block and stay [16]. -/
def powerOnReset (rest : List Input) (s : State) : State :=
  { State.reset with inbox := rest, nanDraws := s.nanDraws }

end Sys2Proof.Machine
end

