-- ==== Sys2Proof/Machine/Start.lean ====
section
/-! DEFINITION. START and STOP (40_control.md R125 to R130). -/

namespace Sys2Proof.Machine

/-- Is the number a finite value with `lo <= x <= hi`? -/
def inClosed (x lo hi : F32) : Bool := F32.isFinite x && F32.within x lo hi

/-- Is the number a finite value with `0.0 < x <= hi`? -/
def inLeftOpen (x hi : F32) : Bool := F32.isFinite x && F32.lt F32.zero x && F32.le x hi

/-- `SPS = SAMPLE_RATE / SYMBOL_RATE` (40_control.md R127 check 3, R128). -/
def spsOf (c : CfgRegs) : F32 := F32.div c.sampleRate c.symbolRate

/-- The checks of START, each with the code it fails with, in the order they run (40_control.md R127). -/
def startChecks (c : CfgRegs) : List (BitVec 4 × Bool) :=
  [(1#4, F32.isFinite c.sampleRate && F32.lt F32.zero c.sampleRate),
   (2#4, F32.isFinite c.symbolRate && F32.lt F32.zero c.symbolRate),
   (3#4, inClosed (spsOf c) F32.two Config.spsMax),
   (4#4, decide (1 ≤ c.filterSpan.toNat) && decide (c.filterSpan.toNat ≤ Config.mfMax)),
   (5#4, inClosed c.loopMu F32.zero F32.two && inClosed c.loopOmega F32.zero F32.four),
   (6#4, inLeftOpen c.freqLimit F32.piF && inClosed c.initFreq (F32.neg c.freqLimit) c.freqLimit),
   (7#4, inClosed c.timMu F32.zero F32.two && inClosed c.timOmega F32.zero F32.four
     && inClosed c.timLimit F32.zero F32.half)] ++
  [(8#4, decide (1 ≤ c.elSpacing.toNat) && decide (c.elSpacing.toNat ≤ Config.elMax)),
   (9#4, inLeftOpen c.errClamp Config.eclampMax),
   (10#4, decide (1 ≤ c.uwLen.toNat) && decide (c.uwLen.toNat ≤ Config.uwMax)
     && decide (1 ≤ c.uwThresh.toNat) && decide (c.uwThresh.toNat ≤ c.uwLen.toNat)),
   (11#4, decide (1 ≤ c.unlockN.toNat)),
   (12#4, inLeftOpen c.seK F32.one),
   (13#4, decide (1 ≤ c.groupSize.toNat) && decide (c.groupSize.toNat ≤ Config.groupMax)),
   (14#4, (c.h.toList.take c.filterSpan.toNat).all F32.isFinite)]

/-- `Validate()` (40_control.md R127): the code of the first check that fails, 0 when all pass. -/
def validate (c : CfgRegs) : BitVec 4 :=
  match (startChecks c).find? fun check => !check.2 with
  | some check => check.1
  | none => 0#4

/-- `A.MASK_N` (40_control.md R128). -/
def maskOf (uwLen : Word) : BitVec 64 :=
  if uwLen = 64#32 then 0xFFFFFFFFFFFFFFFF#64 else (1#64 <<< uwLen.toNat) - 1#64

/-- `LatchActive()` (40_control.md R128): what `A.*` becomes. -/
def latchActive (c : CfgRegs) : Active :=
  let sps := spsOf c
  let tq := F32.mul sps c.timLimit
  { regs := c, sps := sps, tq := tq, tmin := F32.sub sps tq, tmax := F32.add sps tq, rlim := tq,
    maskN := maskOf c.uwLen, nf := F32.ofNat c.uwLen.toNat }

/-- `InitDatapath()` (40_control.md R129). -/
def initDatapath (s : State) : State :=
  discardGroup
    { s with
      run := true, cfgErr := false, cfgCode := 0#4
      xl := Vector.replicate Config.mfMax ⟨F32.zero, F32.zero⟩
      dl := Vector.replicate Config.dlLen ⟨F32.zero, F32.zero⟩
      theta := F32.zero, nu := s.act.regs.initFreq, tacc := F32.zero, tau := s.act.sps, mufrac := F32.zero
      wreg := 0#64, fill := 0#7, miss := 0#32, sync := false, pol := false, stderr := F32.half }

/-- `FailStart(code)` (40_control.md R130). -/
def failStart (code : BitVec 4) (s : State) : State := { s with cfgErr := true, cfgCode := code }

/-- `Stop()` (40_control.md R125). -/
def stop (s : State) : State := discardGroup { s with run := false }

/-- `Start()` (40_control.md R126): it stops first, then validates, and only a valid configuration is latched. -/
def start (s : State) : State :=
  let s := stop s
  let code := validate s.cfg
  if code ≠ 0#4 then failStart code s else initDatapath { s with act := latchActive s.cfg }

end Sys2Proof.Machine
end

