-- ==== Sys2Proof/Machine/Control.lean ====
section
/-! DEFINITION. The meanings of WRITE, READ and the CTRL commands (40_control.md R120 to R131). -/

namespace Sys2Proof.Machine

/-- The command `CMD` of a CTRL write (40_control.md R122). -/
def ctrlCommand (cmd : BitVec 2) (s : State) : State :=
  if cmd = 0#2 then s
  else if cmd = 1#2 then start s
  else if cmd = 2#2 then stop s
  else raise .badCmd s

/-- `CTRL(data)` (40_control.md R122): CLR acts before CMD. -/
def ctrlWrite (data : Word) (s : State) : State := ctrlCommand (cmdOf data) (clearIf (clrOf data) s)

/-- `MemWrite(addr, 4, v)` (20_memory.md R67). -/
def memWrite (addr : Addr) (v : Word) (s : State) : State :=
  match regAt addr with
  | none => raise .badAccess s
  | some r =>
    match r.access with
    | .wo => ctrlWrite v s
    | .ro => raise .badAccess s
    | .rw => { s with cfg := storeCfg r v s.cfg }

/-- WRITE (40_control.md R120). -/
def execWrite (addr : Addr) (data : Word) (s : State) : Host.Outcome State Fault Refusal :=
  .next (memWrite addr data s)

/-- READ (40_control.md R121): the response word is presented to the host. -/
def execRead (addr : Addr) (s : State) : Host.Outcome State Fault Refusal :=
  .next (answer (.response (memRead addr s).1) (memRead addr s).2)

/-- CTRL_NONE (40_control.md R124). -/
def execCtrlNone (clr : Bool) (s : State) : Host.Outcome State Fault Refusal := .next (clearIf clr s)

/-- CTRL_START (40_control.md R126). -/
def execCtrlStart (clr : Bool) (s : State) : Host.Outcome State Fault Refusal := .next (start (clearIf clr s))

/-- CTRL_STOP (40_control.md R125). -/
def execCtrlStop (clr : Bool) (s : State) : Host.Outcome State Fault Refusal := .next (stop (clearIf clr s))

/-- CTRL_RSVD (40_control.md R131): BAD_CMD is raised after CLR acted (60_exceptions.md R254). -/
def execCtrlRsvd (clr : Bool) (s : State) : Host.Outcome State Fault Refusal :=
  .next (raise .badCmd (clearIf clr s))

end Sys2Proof.Machine
end

