-- ==== Sys2Proof/Machine/Packer.lean ====
section
/-! DEFINITION. The symbol accumulator (43_symbol_packer.md R230 to R234). -/

namespace Sys2Proof.Machine

/-- `S.PK_BUF` after `S.PK_BUF[S.PK_COUNT] <- b` (43_symbol_packer.md R231): the live bytes, then `b`. -/
def appendByte (b : Byte) (s : State) : List Byte := s.pkBuf.take s.pkCount.toNat ++ [b]

/-- `Pack(b)` (43_symbol_packer.md R230): the count is exact until it is stored [15]. -/
def pack (b : Byte) (s : State) : State :=
  if s.pkCount.toNat + 1 = s.act.regs.groupSize.toNat then
    discardGroup (emit (.groupOut (appendByte b s)) s)
  else
    { s with pkBuf := appendByte b s, pkCount := BitVec.ofNat 13 (s.pkCount.toNat + 1) }

end Sys2Proof.Machine
end

