-- ==== Sys2Proof/Machine/Extractor.lean ====
section
/-! DEFINITION. The slicer and the unique-word synchroniser (42_symbol_extractor.md R200 to R211). -/

namespace Sys2Proof.Machine

/-- `dist` (42_symbol_extractor.md R204): window bits that disagree with the pattern. -/
def distance (a : Active) (wreg : BitVec 64) : Nat := popcount ((wreg ^^^ a.regs.uwPat) &&& a.maskN)

/-- The better-matching score and its candidate polarity (42_symbol_extractor.md R204). -/
structure Match where
  best : Nat
  inverted : Bool
  deriving DecidableEq, Repr

/-- `best` and `cand` from `N` and `dist` (42_symbol_extractor.md R204): a tie goes to the normal polarity. -/
def betterMatch (n dist : Nat) : Match :=
  if dist ≤ n - dist then ⟨n - dist, false⟩ else ⟨dist, true⟩

/-- The dual correlation of a window (42_symbol_extractor.md R204). -/
def correlate (a : Active) (wreg : BitVec 64) : Match := betterMatch a.regs.uwLen.toNat (distance a wreg)

/-- Lock, latch, miss and unlock (42_symbol_extractor.md R205 to R207). The miss count is exact until it is
stored [15]. -/
def lockUpdate (m : Match) (s : State) : State :=
  if s.act.regs.uwThresh.toNat ≤ m.best then { s with sync := true, pol := m.inverted, miss := 0#32 }
  else if s.sync then
    if s.act.regs.unlockN.toNat ≤ s.miss.toNat + 1 then { s with sync := false, miss := 0#32 }
    else { s with miss := BitVec.ofNat 32 (s.miss.toNat + 1) }
  else s

/-- `einst` (42_symbol_extractor.md R208). -/
def instantError (a : Active) (m : Match) : F32 := F32.div (F32.ofNat (a.regs.uwLen.toNat - m.best)) a.nf

/-- The smoothed error estimate (42_symbol_extractor.md R208). -/
def smoothError (k einst stderr : F32) : F32 := F32.add stderr (F32.mul k (F32.sub einst stderr))

/-- The evaluation of a full window: R204 to R208. -/
def evaluateWindow (s : State) : State :=
  let m := correlate s.act s.wreg
  let s := lockUpdate m s
  { s with stderr := smoothError s.act.regs.seK (instantError s.act m) s.stderr }

/-- `S.WREG` after `braw` enters (42_symbol_extractor.md R202). -/
def shiftWindow (wreg : BitVec 64) (braw : Bool) : BitVec 64 := (wreg <<< 1) ||| (BitVec.ofBool braw).zeroExtend 64

/-- `S.FILL` after one more symbol (42_symbol_extractor.md R203). -/
def fillUpdate (s : State) : BitVec 7 :=
  if s.fill.toNat < s.act.regs.uwLen.toNat then BitVec.ofNat 7 (s.fill.toNat + 1) else s.fill

/-- `obyte := braw XOR S.POL` (42_symbol_extractor.md R200, R201). -/
def outByte (braw pol : Bool) : Byte := (BitVec.ofBool (braw ^^ pol)).zeroExtend 8

/-- `ShiftWindow`, `S.FILL` and, where the window is full, its evaluation (42_symbol_extractor.md R202 to R208). -/
def updateWindow (braw : Bool) (s : State) : State :=
  let s := { s with wreg := shiftWindow s.wreg braw, fill := fillUpdate s }
  if s.fill.toNat = s.act.regs.uwLen.toNat then evaluateWindow s else s

/-- `Extract(neg)` (42_symbol_extractor.md R210). The output byte uses the polarity from before this window. -/
def extract (neg : Bool) (s : State) : State :=
  let braw := !neg
  let obyte := outByte braw s.pol
  pack obyte (emit (.bitOut obyte) (updateWindow braw s))

end Sys2Proof.Machine
end

