-- ==== Sys2Proof/Machine/Sample.lean ====
section
/-! DEFINITION. The meaning of SAMPLE (41_demodulator.md R160 to R186): matched filter, symbol timing, interpolator,
derotation, detectors, loops. -/

namespace Sys2Proof.Machine

/-- `MatchedFilter()` (41_demodulator.md R164): from tap 0 upward, one rounding per operation. Taps and line end
together at `MF_MAX`; a span past them is reached by no run [7]. -/
def matchedFilter (a : Active) (xl : Vector Cplx Config.mfMax) : Cplx :=
  ((a.regs.h.toList.zip xl.toList).take a.regs.filterSpan.toNat).foldl
    (fun acc hx => ⟨F32.add acc.i (F32.mul hx.1 hx.2.i), F32.add acc.q (F32.mul hx.1 hx.2.q)⟩)
    ⟨F32.zero, F32.zero⟩

/-- `Interp(j, p)` (41_demodulator.md R167). -/
def interp (dl : Vector Cplx Config.dlLen) (j : Nat) (p : F32) : Cplx :=
  let w := F32.sub F32.one p
  let a := lineAt dl j
  let b := lineAt dl (j + 1)
  ⟨F32.add (F32.mul w a.i) (F32.mul p b.i), F32.add (F32.mul w a.q) (F32.mul p b.q)⟩

/-- `Derot(v, c, s)` (41_demodulator.md R171), with `cs = (c, s)`. -/
def derot (v : Cplx) (cs : F32 × F32) : Cplx :=
  ⟨F32.add (F32.mul v.i cs.1) (F32.mul v.q cs.2), F32.sub (F32.mul v.q cs.1) (F32.mul v.i cs.2)⟩

/-- What a strobe computes before it updates anything (41_demodulator.md R160): the fractional offset, the derotated
on-time point, the decision, and the two discriminants as they come out of their detectors. -/
structure Detection where
  p : F32
  yOn : Cplx
  neg : Bool
  ep : F32
  et : F32
  deriving DecidableEq, Repr

/-- The detectors of a strobe (41_demodulator.md R169 to R174). -/
def detect (s : State) : Detection :=
  let p := F32.sub F32.zero s.tau
  let d := s.act.regs.elSpacing.toNat
  let cs := F32.trig s.theta
  let yOn := derot (interp s.dl d p) cs
  let yLate := derot (interp s.dl 0 p) cs
  let yEarly := derot (interp s.dl (2 * d) p) cs
  let neg := F32.lt yOn.i F32.zero
  let dsgn := if neg then F32.negOne else F32.one
  { p := p, yOn := yOn, neg := neg, ep := F32.mul dsgn yOn.q, et := F32.mul dsgn (F32.sub yLate.i yEarly.i) }

/-- `Discr(e)`'s value (41_demodulator.md R175). -/
def discr (clampTo e : F32) : F32 := F32.clamp (F32.fin0 e) (F32.neg clampTo) clampTo

/-- The carrier loop's update (41_demodulator.md R176). -/
def carrierUpdate (ep : F32) (s : State) : State :=
  { s with
    nu := F32.clamp (F32.add s.nu (F32.mul s.act.regs.loopOmega ep)) (F32.neg s.act.regs.freqLimit) s.act.regs.freqLimit
    theta := F32.add s.theta (F32.mul s.act.regs.loopMu ep) }

/-- `S.TACC` after a strobe (41_demodulator.md R177). -/
def taccUpdate (et : F32) (s : State) : F32 :=
  F32.clamp (F32.add s.tacc (F32.mul s.act.regs.timOmega et)) (F32.neg s.act.rlim) s.act.rlim

/-- `T`, the next symbol period, from the updated `S.TACC` (41_demodulator.md R177). -/
def nextPeriod (et tacc : F32) (a : Active) : F32 :=
  F32.clamp (F32.add (F32.add a.sps tacc) (F32.mul a.regs.timMu et)) a.tmin a.tmax

/-- The timing loop's update (41_demodulator.md R177). -/
def timingUpdate (et : F32) (s : State) : State :=
  { s with tacc := taccUpdate et s, tau := F32.add s.tau (nextPeriod et (taccUpdate et s) s.act) }

/-- `Strobe()` (41_demodulator.md R160). Both discriminants come from the state before any update. -/
def strobe (s : State) : State :=
  let d := detect s
  let s := raiseIf (!F32.isFinite d.ep || !F32.isFinite d.et) .nfErr s
  let s := carrierUpdate (discr s.act.regs.errClamp d.ep) s
  let s := timingUpdate (discr s.act.regs.errClamp d.et) s
  let s := { s with mufrac := d.p }
  let s := emitSymbol d.yOn s
  extract d.neg s

/-- `SanitizeIn` and `ShiftXL` (41_demodulator.md R162, R163). -/
def takeSample (x : Cplx) (s : State) : State :=
  let s := raiseIf (!finiteC x) .nfIn s
  { s with xl := shiftIn s.xl (fin0C x) }

/-- `MatchedFilter`, `SanitizeMF` and `ShiftDL` (41_demodulator.md R164 to R166). -/
def filterSample (s : State) : State :=
  let f := matchedFilter s.act s.xl
  let s := raiseIf (!finiteC f) .nfMf s
  { s with dl := shiftIn s.dl (fin0C f) }

/-- `S.TAU <- S.TAU - 1.0` (41_demodulator.md R168). -/
def countDown (s : State) : State := { s with tau := F32.sub s.tau F32.one }

/-- Is the sample a strobe, once counted down? (41_demodulator.md R169) -/
def strobeDue (s : State) : Bool := F32.le s.tau F32.zero

/-- `S.THETA <- Wrap(S.THETA + S.NU)` (41_demodulator.md R179). -/
def advanceNco (s : State) : State := { s with theta := F32.wrap (F32.add s.theta s.nu) }

/-- The part of an accepted SAMPLE before the strobe test (41_demodulator.md R162 to R168). -/
def sampleFront (x : Cplx) (s : State) : State := countDown (filterSample (takeSample x s))

/-- An accepted SAMPLE (41_demodulator.md R160). -/
def acceptSample (x : Cplx) (s : State) : State :=
  let s := sampleFront x s
  let s := if strobeDue s then strobe s else s
  advanceNco s

/-- SAMPLE (41_demodulator.md R160). While stopped it changes nothing and is answered NOT_ACCEPTED (R161) [3]. -/
def execSample (i q : F32) (s : State) : Host.Outcome State Fault Refusal :=
  if s.run then .next (acceptSample ⟨i, q⟩ s) else .next (answer .notAccepted s)

end Sys2Proof.Machine
end

