-- ==== Sys2Proof/Machine/Dispatch.lean ====
section
/-! DEFINITION. One arm per transaction (00_scope.md R18, 30_encoding.md R96). -/

namespace Sys2Proof.Machine

def exec (i : Instr) (s : State) : Host.Outcome State Fault Refusal :=
  match i with
  | .sample re im => Sys2Proof.Machine.execSample re im s
  | .write addr data => Sys2Proof.Machine.execWrite addr data s
  | .read addr => Sys2Proof.Machine.execRead addr s
  | .ctrlNone clr => Sys2Proof.Machine.execCtrlNone clr s
  | .ctrlStart clr => Sys2Proof.Machine.execCtrlStart clr s
  | .ctrlStop clr => Sys2Proof.Machine.execCtrlStop clr s
  | .ctrlRsvd clr => Sys2Proof.Machine.execCtrlRsvd clr s

end Sys2Proof.Machine
end

