-- ==== Sys2Proof/Machine/Step.lean ====
section
/-! DEFINITION. One step: the next presented input is performed (00_scope.md R18, 20_memory.md R72). -/

namespace Sys2Proof.Machine

/-- One step. A word that is no transaction is refused (30_encoding.md R98). With nothing presented the block
idles [1]. -/
def step (s : State) : Host.Outcome State Fault Refusal :=
  match s.inbox with
  | [] => .next (idleStep s)
  | .powerOn :: rest => .next (powerOnReset rest s)
  | .word t :: rest =>
    match decode t with
    | .error why => .refused (.invalidWord why)
    | .ok i => exec i (takeWord rest s)

/-- The word is presented as the very next input: the block has no program store (10_state.md R21), so the world's
next presentation is where a step takes its transaction from [1]. -/
def State.withFetchWord (s : State) (nbits w : Nat) : State :=
  { s with inbox := .word (BitVec.ofNat 72 (w % 2 ^ nbits)) :: s.inbox }

end Sys2Proof.Machine
end

