-- ==== Sys2Proof/Machine/HostSide.lean ====
section
/-! DEFINITION. What the spec says of the host around the block: the transaction syntax and pseudo-instructions as
abstract syntax (30_encoding.md R102, R103) [17], the gain formula (40_control.md R133), the boot sequence
(70_reset_and_hazards.md R283). The block evaluates none of it. -/

namespace Sys2Proof.Machine

/-- A decimal literal: `num / 10 ^ scale`, negated when `neg`. -/
structure Decimal where
  neg : Bool
  num : Nat
  scale : Nat
  deriving DecidableEq, Repr

/-- A decimal rounded to binary32 with ties to even (30_encoding.md R102). -/
def Decimal.toF32 (d : Decimal) : F32 := F32.pack d.neg (F32.roundMag (d.num * 2 ^ 149) (10 ^ d.scale))

/-- `<reg>`: a register's name, or a 12-bit hexadecimal address (30_encoding.md R102). -/
inductive RegRef where
  | name (r : Reg)
  | hex (addr : Addr)
  deriving DecidableEq, Repr

/-- The address a `<reg>` stands for. -/
def RegRef.addr : RegRef → Addr
  | .name r => r.addr
  | .hex a => a

/-- `<value>`: a 32-bit integer, or `f32:<decimal>` (30_encoding.md R102). -/
inductive ValueLit where
  | int (v : Word)
  | f32 (d : Decimal)
  deriving DecidableEq, Repr

/-- The 32 bits of a `<value>`. -/
def ValueLit.bits : ValueLit → Word
  | .int v => v
  | .f32 d => d.toF32

/-- `<f32>`: a decimal, or the bits directly (30_encoding.md R102). -/
inductive F32Lit where
  | dec (d : Decimal)
  | bits (b : F32)
  deriving DecidableEq, Repr

/-- The binary32 value of an `<f32>`. -/
def F32Lit.value : F32Lit → F32
  | .dec d => d.toF32
  | .bits b => b

/-- A line of the transaction syntax (30_encoding.md R102) or a pseudo-instruction (R103). -/
inductive AsmLine where
  | sample (i q : F32Lit)
  | write (reg : RegRef) (value : ValueLit)
  | read (reg : RegRef)
  | start
  | stop
  | clr
  | clrstart
  | nopc
  | setf (reg : RegRef) (d : Decimal)
  | rsample (i : F32Lit)
  deriving DecidableEq, Repr

/-- The transaction word of a line (30_encoding.md R92 to R94, R103). -/
def AsmLine.word : AsmLine → TWord
  | .sample i q => encode (.sample i.value q.value)
  | .write reg value => assembleWord 0x02#8 0#20 reg.addr value.bits
  | .read reg => encode (.read reg.addr)
  | .start => assembleWord 0x02#8 0#20 0#12 0x1#32
  | .stop => assembleWord 0x02#8 0#20 0#12 0x2#32
  | .clr => assembleWord 0x02#8 0#20 0#12 0x10#32
  | .clrstart => assembleWord 0x02#8 0#20 0#12 0x11#32
  | .nopc => assembleWord 0x02#8 0#20 0#12 0x0#32
  | .setf reg d => assembleWord 0x02#8 0#20 reg.addr d.toF32
  | .rsample i => encode (.sample i.value F32.zero)

/-- The denominator of the host's gain formula (40_control.md R133). -/
def gainDenom (bandwidth damping : ℚ) : ℚ := 1 + 2 * damping * bandwidth + bandwidth ^ 2

/-- `mu`, for LOOP_MU (40_control.md R133). -/
def gainMu (bandwidth damping : ℚ) : ℚ := 4 * damping * bandwidth / gainDenom bandwidth damping

/-- `omega`, for LOOP_OMEGA (40_control.md R133). -/
def gainOmega (bandwidth damping : ℚ) : ℚ := 4 * bandwidth ^ 2 / gainDenom bandwidth damping

/-- A rational rounded to binary32, ties to even: how the host writes a gain. -/
def f32OfRat (x : ℚ) : F32 := F32.pack (decide (x < 0)) (F32.roundMag (x.num.natAbs * 2 ^ 149) x.den)

/-- The configuration registers of the boot sequence's first step, 0x010 to 0x058 (70_reset_and_hazards.md R283). -/
def bootRegs : List Reg :=
  [.sampleRate, .symbolRate, .filterSpan, .loopMu, .loopOmega, .initFreq, .freqLimit, .timMu, .timOmega, .timLimit] ++
  [.elSpacing, .errClamp, .uwLen, .uwThresh, .unlockN, .seK, .groupSize, .uwPatLo, .uwPatHi]

/-- The value a configuration gives a RW register. -/
def cfgValue (r : Reg) (c : CfgRegs) : Word := readReg r { State.reset with cfg := c }

/-- The tap registers `H[0] .. H[n-1]`. -/
def tapRegs (n : Nat) : List Reg := ((List.finRange Config.mfMax).take n).map Reg.h

/-- What step 1 of the boot sequence writes: every configuration register, and the taps of the filter span. -/
def bootTargets (c : CfgRegs) : List Reg := bootRegs ++ tapRegs c.filterSpan.toNat

/-- WRITEs of the given registers, in the given order, each with its value in `c`. -/
def bootWrites (order : List Reg) (c : CfgRegs) : List Instr := order.map fun r => .write r.addr (cfgValue r c)

/-- The boot sequence (70_reset_and_hazards.md R283): writes, an optional CLR, START, READ STATUS. R283 allows the writes
in any order, so the order is an argument: any rearrangement of `bootTargets c`. DEDUCED: the CLR of step 2, whose CMD R283
leaves open, is CLR alone, the `clr` of 30_encoding.md R103 [17]. -/
def bootSequence (order : List Reg) (c : CfgRegs) (clr : Bool) : List Instr :=
  bootWrites order c ++ (if clr then [.ctrlNone true] else []) ++ [.ctrlStart false, .read Reg.status.addr]

end Sys2Proof.Machine
end

