-- ==== Sys2Proof/Safety.lean ====
section
/-! DEFINITION. What counts as a safe state and a safe run, in the spec's terms: the invariants of 10_state.md R48 and
of the derived sentences beside it, and the events of a run. -/

namespace Sys2Proof.Safety

open Sys2Proof.Machine

/-! ### Invariants -/

/-- While running, `A.*` is the snapshot of a configuration that passed every check (40_control.md R127, R128). -/
def Configured (s : State) : Prop :=
  s.run = true → validate s.act.regs = 0#4 ∧ s.act = latchActive s.act.regs

/-- `x` is finite and `lo <= x <= hi`. -/
abbrev Bounded (lo x hi : F32) : Prop := F32.isFinite x = true ∧ F32.within x lo hi = true

/-- Bounded state (10_state.md R48): what holds between transactions while `S.RUN = 1`. -/
structure LoopsBounded (s : State) : Prop where
  xl : ∀ k (h : k < Config.mfMax), finiteC s.xl[k] = true
  dl : ∀ k (h : k < Config.dlLen), finiteC s.dl[k] = true
  theta : Bounded (F32.neg F32.piF) s.theta F32.piF
  thetaBelow : F32.lt s.theta F32.piF = true
  nu : Bounded (F32.neg s.act.regs.freqLimit) s.nu s.act.regs.freqLimit
  tacc : Bounded (F32.neg s.act.rlim) s.tacc s.act.rlim
  tau : Bounded F32.zero s.tau s.act.tmax
  mufrac : Bounded F32.zero s.mufrac F32.one
  stderr : Bounded F32.zero s.stderr F32.one

/-- The packer's counter and buffer (10_state.md R39, R40, 43_symbol_packer.md R231, R232). -/
structure PackerSound (s : State) : Prop where
  live : s.pkBuf.length = s.pkCount.toNat
  stopped : s.run = false → s.pkCount = 0#13
  room : s.run = true → s.pkCount.toNat < s.act.regs.groupSize.toNat

/-- The extractor's counters and lock flag while running (10_state.md R37, R38, 42_symbol_extractor.md R207,
70_reset_and_hazards.md R286). -/
structure LockSound (s : State) : Prop where
  fill : s.run = true → s.fill.toNat ≤ s.act.regs.uwLen.toNat
  miss : s.run = true → s.miss.toNat < s.act.regs.unlockN.toNat
  unlocked : s.run = true → s.sync = false → s.miss = 0#32
  filling : s.run = true → s.fill.toNat < s.act.regs.uwLen.toNat →
    s.sync = false ∧ s.pol = false ∧ s.stderr = F32.half

/-- The report of the last START (10_state.md R27, 60_exceptions.md R253). -/
structure ReportSound (s : State) : Prop where
  code : s.cfgErr = true ↔ s.cfgCode ≠ 0#4
  reserved : s.cfgCode ≠ 15#4
  running : s.run = true → s.cfgErr = false

/-- The invariants of the counters, the lock flag, the report and the snapshot together. -/
structure ControlSound (s : State) : Prop where
  configured : Configured s
  packer : PackerSound s
  lock : LockSound s
  report : ReportSound s

/-- Every invariant of the block: the sound control state, and bounded loops while running. -/
structure Sound (s : State) : Prop where
  control : ControlSound s
  loops : s.run = true → LoopsBounded s

/-! ### Addresses -/

/-- The mapped addresses of 20_memory.md R64, as its table and its list of unmapped ranges give them. -/
abbrev Mapped (a : Nat) : Prop :=
  a % 4 = 0 ∧ (a ≤ 0x008 ∨ (0x010 ≤ a ∧ a ≤ 0x058) ∨ (0x080 ≤ a ∧ a ≤ 0x0A4) ∨ (0x400 ≤ a ∧ a ≤ 0x4FC))

/-- The read-only addresses of 20_memory.md R64. -/
abbrev ReadOnly (a : Nat) : Prop :=
  a % 4 = 0 ∧ ((0x004 ≤ a ∧ a ≤ 0x008) ∨ (0x080 ≤ a ∧ a ≤ 0x0A4))

/-! ### The checks of START -/

/-- `x` is finite, and its exact value in units of 2^-149 meets `p`. -/
def FiniteAnd (x : F32) (p : Int → Prop) : Prop := F32.isFinite x = true ∧ p (F32.units x)

/-- Check `k` of 40_control.md R127, with f32 comparisons written on exact values (1.0 is 2^149 units). -/
def StartCheck (c : CfgRegs) : Nat → Prop
  | 1 => FiniteAnd c.sampleRate fun x => 0 < x
  | 2 => FiniteAnd c.symbolRate fun x => 0 < x
  | 3 => FiniteAnd (F32.div c.sampleRate c.symbolRate) fun x => 2 * 2 ^ 149 ≤ x ∧ x ≤ 65536 * 2 ^ 149
  | 4 => 1 ≤ c.filterSpan.toNat ∧ c.filterSpan.toNat ≤ 64
  | 5 => (FiniteAnd c.loopMu fun x => 0 ≤ x ∧ x ≤ 2 * 2 ^ 149) ∧ (FiniteAnd c.loopOmega fun x => 0 ≤ x ∧ x ≤ 4 * 2 ^ 149)
  | 6 => (FiniteAnd c.freqLimit fun x => 0 < x ∧ x ≤ F32.units F32.piF) ∧
      (FiniteAnd c.initFreq fun x => - F32.units c.freqLimit ≤ x ∧ x ≤ F32.units c.freqLimit)
  | 7 => (FiniteAnd c.timMu fun x => 0 ≤ x ∧ x ≤ 2 * 2 ^ 149) ∧ (FiniteAnd c.timOmega fun x => 0 ≤ x ∧ x ≤ 4 * 2 ^ 149) ∧
      (FiniteAnd c.timLimit fun x => 0 ≤ x ∧ 2 * x ≤ 2 ^ 149)
  | 8 => 1 ≤ c.elSpacing.toNat ∧ c.elSpacing.toNat ≤ 8
  | 9 => FiniteAnd c.errClamp fun x => 0 < x ∧ x ≤ 1000000 * 2 ^ 149
  | 10 => 1 ≤ c.uwLen.toNat ∧ c.uwLen.toNat ≤ 64 ∧ 1 ≤ c.uwThresh.toNat ∧ c.uwThresh.toNat ≤ c.uwLen.toNat
  | 11 => 1 ≤ c.unlockN.toNat
  | 12 => FiniteAnd c.seK fun x => 0 < x ∧ x ≤ 2 ^ 149
  | 13 => 1 ≤ c.groupSize.toNat ∧ c.groupSize.toNat ≤ 8192
  | 14 => ∀ k (h : k < Config.mfMax), k < c.filterSpan.toNat → F32.isFinite c.h[k] = true
  | _ => True

/-! ### Transactions and results -/

/-- A CTRL command with CLR = 1 (40_control.md R123). -/
def ClearsSticky : Instr → Prop
  | .ctrlNone clr => clr = true
  | .ctrlStart clr => clr = true
  | .ctrlStop clr => clr = true
  | .ctrlRsvd clr => clr = true
  | .sample _ _ => False
  | .write _ _ => False
  | .read _ => False

/-- One binary32 value, or two zeros of any signs. -/
abbrev SameButZeroSign (x y : F32) : Prop := x = y ∨ (F32.isZero x = true ∧ F32.isZero y = true)

/-- The state a SAMPLE reaches before the strobe test, written out from 41_demodulator.md R162 to R168. -/
def countedDown (x : Cplx) (s : State) : State :=
  { s with
    nfIn := s.nfIn || !finiteC x
    xl := shiftIn s.xl (fin0C x)
    nfMf := s.nfMf || !finiteC (matchedFilter s.act (shiftIn s.xl (fin0C x)))
    dl := shiftIn s.dl (fin0C (matchedFilter s.act (shiftIn s.xl (fin0C x))))
    tau := F32.sub s.tau F32.one }

/-- Is a SAMPLE in state `s` a strobe? (41_demodulator.md R169) -/
abbrev IsStrobe (s : State) : Prop := F32.le (F32.sub s.tau F32.one) F32.zero = true

/-! ### Runs -/

/-- The events of the first `n` steps, in order. -/
def runEvents : Nat → State → List OutEvent
  | 0, _ => []
  | n + 1, s =>
    match step s with
    | .next t => t.events ++ runEvents n t
    | .fault _ => []
    | .refused _ => []

/-- The payload bytes of the GROUP_OUT events, in order. -/
def groupBytes (es : List OutEvent) : List Byte :=
  es.flatMap fun e => match e with
    | .groupOut bytes => bytes
    | .symOut _ _ => []
    | .bitOut _ => []

/-- The BIT_OUT bytes, in order. -/
def bitBytes (es : List OutEvent) : List Byte :=
  es.flatMap fun e => match e with
    | .bitOut b => [b]
    | .symOut _ _ => []
    | .groupOut _ => []

/-- The GROUP_OUT payloads, in order. -/
def groupPayloads (es : List OutEvent) : List (List Byte) :=
  es.filterMap fun e => match e with
    | .groupOut bytes => some bytes
    | .symOut _ _ => none
    | .bitOut _ => none

/-- An input that neither starts nor stops nor resets the block. -/
def KeepsRunning : Input → Prop
  | .powerOn => False
  | .word t =>
    match decode t with
    | .ok (.ctrlStart _) => False
    | .ok (.ctrlStop _) => False
    | _ => True

/-- The number of units by which binary32 value `x` misses the exact value `num / den`, times `den`. -/
def missBy (x : F32) (num : Int) (den : Nat) : Nat := (F32.units x * den - num).natAbs

/-- `r` is a binary32 value nearest to the exact value `num / den` units, and among two nearest ones the one with an
even significand: roundTiesToEven on a value that does not overflow (00_scope.md R10). -/
structure NearestEven (r : F32) (num : Int) (den : Nat) : Prop where
  finite : F32.isFinite r = true
  nearest : ∀ y, F32.isFinite y = true → missBy r num den ≤ missBy y num den
  even : ∀ y, F32.isFinite y = true → missBy y num den = missBy r num den → F32.units y ≠ F32.units r →
    F32.mag r % 2 = 0

end Sys2Proof.Safety
end

