-- ==== Sys2Proof/Certificates/Slice0/Obligations.lean ====
section
/-! DEFINITION. The statements for the provers, from the numbered rules of the spec, family by family. -/

open Sys2Proof Sys2Proof.Machine Sys2Proof.Safety

/-! ### Encoding (30_encoding.md) -/

/-- 30_encoding.md R92 to R96: the decoder gives back every well-formed transaction, with every operand at every value
the encoding admits. -/
def Obligations.DecodeOfEncodeIsIdentity : Prop :=
  ∀ i : Instr, i.wf = true → decode (encode i) = .ok i

/-- 30_encoding.md R96, written on the word as a number: field arithmetic in place of bit slices. -/
def Obligations.DecodingFollowsTheFieldRules : Prop :=
  ∀ t : TWord,
    (decode t).toOption =
      if t.toNat / 2 ^ 64 = 1 then
        some (.sample (BitVec.ofNat 32 (t.toNat % 2 ^ 32)) (BitVec.ofNat 32 (t.toNat / 2 ^ 32 % 2 ^ 32)))
      else if t.toNat / 2 ^ 64 = 2 then
        if t.toNat / 2 ^ 44 % 2 ^ 20 ≠ 0 then none
        else if t.toNat / 2 ^ 32 % 2 ^ 12 = 0 then
          if t.toNat % 4 = 0 then some (.ctrlNone (decide (t.toNat / 16 % 2 = 1)))
          else if t.toNat % 4 = 1 then some (.ctrlStart (decide (t.toNat / 16 % 2 = 1)))
          else if t.toNat % 4 = 2 then some (.ctrlStop (decide (t.toNat / 16 % 2 = 1)))
          else some (.ctrlRsvd (decide (t.toNat / 16 % 2 = 1)))
        else some (.write (BitVec.ofNat 12 (t.toNat / 2 ^ 32 % 2 ^ 12)) (BitVec.ofNat 32 (t.toNat % 2 ^ 32)))
      else if t.toNat / 2 ^ 64 = 3 then
        if t.toNat / 2 ^ 44 % 2 ^ 20 ≠ 0 ∨ t.toNat % 2 ^ 32 ≠ 0 then none
        else some (.read (BitVec.ofNat 12 (t.toNat / 2 ^ 32 % 2 ^ 12)))
      else none

/-- 30_encoding.md R96, R100 and spec/opcode_table.json: the word of every transaction, and no other word, is covered by
the table, and the row of highest priority that covers it bears the transaction's mnemonic. -/
def Obligations.DecoderAndOpcodeTableAgree : Prop :=
  ∀ t : TWord, (decode t).toOption.map Instr.mnemonic = tableMnemonic t

/-- 30_encoding.md R97, R99: what the decoder reads is well formed, and encoding it gives the word back, with bits 31:5
and 3:2 of a CTRL word's DATA cleared and nothing else changed. -/
def Obligations.EncodeOfDecodeDropsOnlyIgnoredBits : Prop :=
  ∀ (t : TWord) (i : Instr), decode t = .ok i →
    i.wf = true ∧
    (kindOf t = 0x02#8 ∧ addrOf t = 0#12 → encode i = t &&& 0xFFFFFFFFFF00000013#72) ∧
    (¬ (kindOf t = 0x02#8 ∧ addrOf t = 0#12) → encode i = t)

/-- 30_encoding.md R98: a step refuses exactly the invalid words (and a refused step has no next state). -/
def Obligations.ExactlyTheInvalidWordsAreRefused : Prop :=
  ∀ (s : State) (t : TWord) (rest : List Input), s.inbox = .word t :: rest →
    ((∃ why, step s = .refused why) ↔
      (t.toNat / 2 ^ 64 ≠ 1 ∧ t.toNat / 2 ^ 64 ≠ 2 ∧ t.toNat / 2 ^ 64 ≠ 3) ∨
      (t.toNat / 2 ^ 64 = 2 ∧ t.toNat / 2 ^ 44 % 2 ^ 20 ≠ 0) ∨
      (t.toNat / 2 ^ 64 = 3 ∧ (t.toNat / 2 ^ 44 % 2 ^ 20 ≠ 0 ∨ t.toNat % 2 ^ 32 ≠ 0)))

/-- 30_encoding.md R92 to R95, R98 and the vectors V-E1 to V-E13 of 95_test_vectors.md: words written out there. -/
def Obligations.ExampleWordsDecodeAsTheSpecSays : Prop :=
  decode 0x01000000003F800000#72 = .ok (.sample 0x3F800000#32 0#32) ∧
  decode 0x013EF577443F60A940#72 = .ok (.sample 0x3F60A940#32 0x3EF57744#32) ∧
  decode 0x020000001040000000#72 = .ok (.write 0x010#12 0x40000000#32) ∧
  decode 0x030000000400000000#72 = .ok (.read 0x004#12) ∧
  decode 0x020000000000000010#72 = .ok (.ctrlNone true) ∧
  decode 0x020000000000000001#72 = .ok (.ctrlStart false) ∧
  decode 0x0200000000FFFFFFEE#72 = .ok (.ctrlStop false) ∧
  decode 0x020000000000000013#72 = .ok (.ctrlRsvd true) ∧
  decode 0x020000100000000001#72 = .error .writeHiNonzero

/-! ### Steps and reset (00_scope.md R18, 70_reset_and_hazards.md) -/

/-- 00_scope.md R18, 20_memory.md R72: a step whose next presented word decodes performs that transaction on the state
with the word taken and no output presented yet. (The list of presented inputs is the model's form, log entry 1.) -/
def Obligations.StepPerformsThePresentedTransaction : Prop :=
  ∀ (s : State) (t : TWord) (rest : List Input) (i : Instr),
    s.inbox = .word t :: rest → decode t = .ok i →
    step s = exec i { s with inbox := rest, events := [], result := .done }

/-- 70_reset_and_hazards.md R280 and log entries 1, 5, 16: the reset input gives the block the reset state and presents no
event, whatever the state was; with nothing presented the block's own state is held. The form of the presented inputs
and the counter of free NaN patterns are the model's. -/
def Obligations.ResetInputAndIdleSteps : Prop :=
  (∀ (s : State) (rest : List Input), s.inbox = .powerOn :: rest →
    step s = .next { State.reset with inbox := rest, nanDraws := s.nanDraws }) ∧
  (∀ s : State, s.inbox = [] → step s = .next { s with events := [], result := .idle })

/-- 10_state.md R49: the power-on reset values. -/
def Obligations.ResetValuesAreTheSpecs : Prop :=
  (∀ r : Reg, r ≠ .stderr → readReg r State.reset = 0#32) ∧
  State.reset.stderr = 0x3F000000#32 ∧ readReg .stderr State.reset = 0x3F000000#32 ∧
  State.reset.act.regs = State.reset.cfg ∧
  State.reset.act.sps = 0#32 ∧ State.reset.act.tq = 0#32 ∧ State.reset.act.tmin = 0#32 ∧
  State.reset.act.tmax = 0#32 ∧ State.reset.act.rlim = 0#32 ∧ State.reset.act.maskN = 0#64 ∧
  State.reset.act.nf = 0#32 ∧
  State.reset.run = false ∧ State.reset.cfgErr = false ∧ State.reset.cfgCode = 0#4 ∧
  (∀ e : StatusEvent, sticky e State.reset = false) ∧
  (∀ k (h : k < Config.mfMax), State.reset.xl[k] = ⟨0#32, 0#32⟩) ∧
  (∀ k (h : k < Config.dlLen), State.reset.dl[k] = ⟨0#32, 0#32⟩) ∧
  State.reset.theta = 0#32 ∧ State.reset.nu = 0#32 ∧ State.reset.tacc = 0#32 ∧ State.reset.tau = 0#32 ∧
  State.reset.mufrac = 0#32 ∧ State.reset.wreg = 0#64 ∧ State.reset.fill = 0#7 ∧ State.reset.miss = 0#32 ∧
  State.reset.sync = false ∧ State.reset.pol = false ∧ State.reset.pkCount = 0#13

/-! ### Register space (20_memory.md) and WRITE, READ (40_control.md R120, R121) -/

/-- 20_memory.md R63, R64: the mapped addresses are those of the table, each names its own register, and the access
classes lie where the table puts them. -/
def Obligations.RegisterMapIsTheTables : Prop :=
  (∀ a : Addr, (regAt a).isSome = true ↔ Mapped a.toNat) ∧
  (∀ r : Reg, regAt r.addr = some r) ∧
  (∀ (a : Addr) (r : Reg), regAt a = some r →
    r.addr = a ∧ (r.access = .ro ↔ ReadOnly a.toNat) ∧ (r.access = .wo ↔ a = 0#12))

/-- READ completes for every address (20_memory.md R66): the register's value is answered and nothing else changes;
CTRL reads as 0 without an event; a misaligned or unmapped address answers 0 and raises BAD_ACCESS. -/
def Obligations.ReadAnswersTheRegister : Prop :=
  ∀ (a : Addr) (s : State),
    (∀ r, regAt a = some r → exec (.read a) s = .next { s with result := .response (readReg r s) }) ∧
    (a = 0#12 → exec (.read a) s = .next { s with result := .response 0#32 }) ∧
    (¬ Mapped a.toNat → exec (.read a) s = .next { s with badAccess := true, result := .response 0#32 })

/-- 20_memory.md R80, R85: the fields of STATUS bit by bit, and the debug registers. -/
def Obligations.StatusAndDebugRegistersShowTheState : Prop :=
  ∀ s : State,
    ((readReg .status s).getLsbD 0 = s.run ∧ (readReg .status s).getLsbD 1 = s.sync ∧
      (readReg .status s).getLsbD 2 = s.pol ∧ (readReg .status s).getLsbD 3 = s.cfgErr ∧
      (readReg .status s).toNat / 16 % 16 = s.cfgCode.toNat ∧
      (readReg .status s).getLsbD 8 = s.nfIn ∧ (readReg .status s).getLsbD 9 = s.nfMf ∧
      (readReg .status s).getLsbD 10 = s.nfErr ∧ (readReg .status s).getLsbD 11 = s.badCmd ∧
      (readReg .status s).getLsbD 12 = s.badAccess ∧ (readReg .status s).toNat < 2 ^ 13) ∧
    (readReg .stderr s = s.stderr ∧ readReg .theta s = s.theta ∧ readReg .nu s = s.nu ∧ readReg .tacc s = s.tacc ∧
      readReg .tau s = s.tau ∧ readReg .mufrac s = s.mufrac ∧ (readReg .fill s).toNat = s.fill.toNat ∧
      readReg .miss s = s.miss ∧ (readReg .pkCount s).toNat = s.pkCount.toNat ∧
      readReg .wregHi s ++ readReg .wregLo s = s.wreg)

/-- WRITE completes for every address (20_memory.md R67): a RW register stores the data in `CFG.*` alone, a misaligned,
unmapped or read-only address changes nothing but BAD_ACCESS, and address 0x000 performs the CTRL command. -/
def Obligations.WriteStoresOrRaises : Prop :=
  ∀ (a : Addr) (v : Word) (s : State),
    (∀ r, regAt a = some r → r.access = .rw →
      exec (.write a v) s = .next { s with cfg := storeCfg r v s.cfg }) ∧
    (¬ Mapped a.toNat ∨ ReadOnly a.toNat → exec (.write a v) s = .next { s with badAccess := true }) ∧
    (a = 0#12 → exec (.write a v) s = exec (decodeCtrl v) s)

/-- 20_memory.md R65, R82, R83, R86: a written RW register reads back exactly what was written, whatever the value, and
every other register reads as before. -/
def Obligations.WrittenRegisterReadsBack : Prop :=
  ∀ (r : Reg) (v : Word) (s : State), r.access = .rw →
    ∃ t, exec (.write r.addr v) s = .next t ∧ readReg r t = v ∧ ∀ r', r' ≠ r → readReg r' t = readReg r' s

/-- 20_memory.md R76, 40_control.md R134: what a SAMPLE does and emits does not depend on `CFG.*`. -/
def Obligations.DatapathIgnoresProgrammedConfiguration : Prop :=
  ∀ (s t : State) (c : CfgRegs) (i q : F32),
    exec (.sample i q) s = .next t → exec (.sample i q) { s with cfg := c } = .next { t with cfg := c }

/-! ### CTRL commands (40_control.md) -/

/-- CTRL_NONE completes (40_control.md R123, R124): with CLR = 1 the five sticky bits are cleared and nothing else
changes, so CFG_ERR and CFG_CODE stay; with CLR = 0 it is a no-op. -/
def Obligations.CtrlNoneClearsOrDoesNothing : Prop :=
  ∀ s : State,
    exec (.ctrlNone true) s = .next
      { s with nfIn := false, nfMf := false, nfErr := false, badCmd := false, badAccess := false } ∧
    exec (.ctrlNone false) s = .next s

/-- CTRL_RSVD completes (40_control.md R131, 60_exceptions.md R254): BAD_CMD is raised and nothing else changes; with
CLR = 1 the other sticky bits are cleared first. -/
def Obligations.CtrlRsvdRaisesBadCmd : Prop :=
  ∀ s : State,
    exec (.ctrlRsvd false) s = .next { s with badCmd := true } ∧
    exec (.ctrlRsvd true) s = .next
      { s with nfIn := false, nfMf := false, nfErr := false, badCmd := true, badAccess := false }

/-- CTRL_STOP completes (40_control.md R125): RUN and PK_COUNT become 0, the partial group is gone, no event is emitted,
and every other field keeps its value. (The emptied buffer is the model's form of R40's unobservable entries, log entry
8.) -/
def Obligations.StopDiscardsThePartialGroup : Prop :=
  ∀ s : State,
    exec (.ctrlStop false) s = .next { s with run := false, pkCount := 0#13, pkBuf := [] } ∧
    exec (.ctrlStop true) s = .next
      { s with run := false, pkCount := 0#13, pkBuf := [],
               nfIn := false, nfMf := false, nfErr := false, badCmd := false, badAccess := false }

/-- 40_control.md R126, R130: a START whose configuration fails a check leaves the block stopped with the code of that
check, and keeps `A.*`, the loops, the extractor and (without CLR) the sticky bits. -/
def Obligations.FailedStartReportsTheCode : Prop :=
  ∀ (s : State) (clr : Bool), validate s.cfg ≠ 0#4 →
    exec (.ctrlStart clr) s = .next
      { clearIf clr s with run := false, pkCount := 0#13, pkBuf := [], cfgErr := true, cfgCode := validate s.cfg }

/-- CTRL_START completes (40_control.md R126, R128, R129): a valid configuration is latched with its derived values and
the datapath starts from scratch. -/
def Obligations.SuccessfulStartLatchesAndInitialises : Prop :=
  ∀ (s : State) (clr : Bool), validate s.cfg = 0#4 →
    exec (.ctrlStart clr) s = .next
      { clearIf clr s with
        act :=
          { regs := s.cfg
            sps := F32.div s.cfg.sampleRate s.cfg.symbolRate
            tq := F32.mul (F32.div s.cfg.sampleRate s.cfg.symbolRate) s.cfg.timLimit
            tmin := F32.sub (F32.div s.cfg.sampleRate s.cfg.symbolRate)
              (F32.mul (F32.div s.cfg.sampleRate s.cfg.symbolRate) s.cfg.timLimit)
            tmax := F32.add (F32.div s.cfg.sampleRate s.cfg.symbolRate)
              (F32.mul (F32.div s.cfg.sampleRate s.cfg.symbolRate) s.cfg.timLimit)
            rlim := F32.mul (F32.div s.cfg.sampleRate s.cfg.symbolRate) s.cfg.timLimit
            maskN := BitVec.ofNat 64 (2 ^ s.cfg.uwLen.toNat - 1)
            nf := F32.ofNat s.cfg.uwLen.toNat }
        run := true, cfgErr := false, cfgCode := 0#4
        xl := Vector.replicate 64 ⟨0#32, 0#32⟩, dl := Vector.replicate 18 ⟨0#32, 0#32⟩
        theta := 0#32, nu := s.cfg.initFreq, tacc := 0#32
        tau := F32.div s.cfg.sampleRate s.cfg.symbolRate, mufrac := 0#32
        wreg := 0#64, fill := 0#7, miss := 0#32, sync := false, pol := false, stderr := 0x3F000000#32
        pkCount := 0#13, pkBuf := [] }

/-- 40_control.md R127, 60_exceptions.md R253: `validate` is 0 exactly when all fourteen checks pass, is otherwise the
number of the first check that fails, and is never 15. -/
def Obligations.ValidateGivesTheFirstFailingCheck : Prop :=
  ∀ c : CfgRegs,
    (validate c = 0#4 ↔ ∀ k, 1 ≤ k → k ≤ 14 → StartCheck c k) ∧
    (∀ k, 1 ≤ k → k ≤ 14 →
      (validate c = BitVec.ofNat 4 k ↔ ¬ StartCheck c k ∧ ∀ j, 1 ≤ j → j < k → StartCheck c j)) ∧
    validate c ≠ 15#4

/-- 70_reset_and_hazards.md R282: START right after power-on reset fails with code 1 and leaves STATUS = 0x00000018. -/
def Obligations.StartAfterResetFailsWithCodeOne : Prop :=
  ∃ t, exec (.ctrlStart false) State.reset = .next t ∧ t.run = false ∧ t.cfgCode = 1#4 ∧
    readReg .status t = 0x00000018#32

/-- 40_control.md R128: for a valid configuration `1.0 <= TMIN <= SPS <= TMAX <= 1.5 * SPS`, all finite. The last bound
is against the binary32 product, rounded as every f32 operation is. -/
def Obligations.TimingWindowIsOrdered : Prop :=
  ∀ c : CfgRegs, validate c = 0#4 →
    F32.isFinite (latchActive c).tmin = true ∧ F32.isFinite (latchActive c).sps = true ∧
    F32.isFinite (latchActive c).tmax = true ∧
    F32.le F32.one (latchActive c).tmin = true ∧ F32.le (latchActive c).tmin (latchActive c).sps = true ∧
    F32.le (latchActive c).sps (latchActive c).tmax = true ∧
    F32.le (latchActive c).tmax (F32.mul 0x3FC00000#32 (latchActive c).sps) = true

/-- 40_control.md R132: STOP while stopped leaves every field as it was (in states where a stopped block holds no
partial group, which every step keeps: StepKeepsControlSound). -/
def Obligations.StopWhileStoppedChangesNothing : Prop :=
  ∀ s : State, PackerSound s → s.run = false → exec (.ctrlStop false) s = .next s

/-! ### Whole-machine rules -/

/-- 60_exceptions.md R255: no transaction faults or is refused; every one runs to completion in every state. -/
def Obligations.EveryTransactionCompletes : Prop :=
  ∀ (i : Instr) (s : State), ∃ t, exec i s = .next t

/-- 60_exceptions.md R251: a sticky bit stays set through every transaction but a CTRL write with CLR = 1, which leaves
none set but BAD_CMD where the command is the reserved one. -/
def Obligations.StickyBitsStayUntilCleared : Prop :=
  ∀ (i : Instr) (s t : State) (e : StatusEvent), i.wf = true → exec i s = .next t →
    (¬ ClearsSticky i → sticky e s = true → sticky e t = true) ∧
    (ClearsSticky i → sticky e t = true → e = .badCmd ∧ i = .ctrlRsvd true)

/-- 60_exceptions.md R252: a sticky bit is raised only by its own cause. -/
def Obligations.EventsHaveTheirCauses : Prop :=
  ∀ (i : Instr) (s t : State), i.wf = true → exec i s = .next t →
    (s.nfIn = false → t.nfIn = true → ∃ re im, i = .sample re im ∧ s.run = true ∧ finiteC ⟨re, im⟩ = false) ∧
    (s.nfMf = false → t.nfMf = true → ∃ re im, i = .sample re im ∧ s.run = true ∧
      finiteC (matchedFilter s.act (shiftIn s.xl (fin0C ⟨re, im⟩))) = false) ∧
    (s.nfErr = false → t.nfErr = true → ∃ re im, i = .sample re im ∧ s.run = true ∧ IsStrobe s ∧
      (F32.isFinite (detect (countedDown ⟨re, im⟩ s)).ep = false ∨
        F32.isFinite (detect (countedDown ⟨re, im⟩ s)).et = false)) ∧
    (s.badCmd = false → t.badCmd = true → ∃ clr, i = .ctrlRsvd clr) ∧
    (s.badAccess = false → t.badAccess = true →
      (∃ a, i = .read a ∧ ¬ Mapped a.toNat) ∨ (∃ a v, i = .write a v ∧ (¬ Mapped a.toNat ∨ ReadOnly a.toNat)))

/-- 40_control.md R136, 43_symbol_packer.md R237: only a SAMPLE accepted while running presents an event. -/
def Obligations.OnlyAcceptedSamplesEmit : Prop :=
  ∀ (i : Instr) (s t : State), exec i s = .next t → t.events ≠ s.events →
    ∃ re im, i = .sample re im ∧ s.run = true

/-- 10_state.md R26: RUN rises only at a START that passes, and falls only at a STOP or a START that fails. -/
def Obligations.RunChangesOnlyByStartAndStop : Prop :=
  ∀ (i : Instr) (s t : State), i.wf = true → exec i s = .next t → t.run ≠ s.run →
    (t.run = true ∧ ∃ clr, i = .ctrlStart clr ∧ validate s.cfg = 0#4) ∨
    (t.run = false ∧ ((∃ clr, i = .ctrlStop clr) ∨ ∃ clr, i = .ctrlStart clr ∧ validate s.cfg ≠ 0#4))

/-- 10_state.md R22, 40_control.md R128, R134: `A.*` changes only at a successful START, to the snapshot of `CFG.*`, and
`CFG.*` changes only at a WRITE. -/
def Obligations.ConfigurationMovesOnlyByWriteAndStart : Prop :=
  ∀ (i : Instr) (s t : State), i.wf = true → exec i s = .next t →
    (t.act ≠ s.act → ∃ clr, i = .ctrlStart clr ∧ validate s.cfg = 0#4 ∧ t.act = latchActive s.cfg) ∧
    (t.cfg ≠ s.cfg → ∃ a v, i = .write a v)

/-! ### SAMPLE (41_demodulator.md) -/

/-- 41_demodulator.md R161: a SAMPLE while stopped changes no state, raises and emits nothing; it is answered
NOT_ACCEPTED. -/
def Obligations.StoppedSampleIsNotAccepted : Prop :=
  ∀ (s : State) (i q : F32), s.run = false → exec (.sample i q) s = .next { s with result := .notAccepted }

/-- SAMPLE completes between strobes (41_demodulator.md R162 to R169, R179): the whole next state. -/
def Obligations.SampleBetweenStrobes : Prop :=
  ∀ (s : State) (i q : F32), s.run = true → ¬ IsStrobe s →
    exec (.sample i q) s = .next
      { s with
        nfIn := s.nfIn || !(F32.isFinite i && F32.isFinite q)
        xl := shiftIn s.xl ⟨F32.fin0 i, F32.fin0 q⟩
        nfMf := s.nfMf || !finiteC (matchedFilter s.act (shiftIn s.xl ⟨F32.fin0 i, F32.fin0 q⟩))
        dl := shiftIn s.dl (fin0C (matchedFilter s.act (shiftIn s.xl ⟨F32.fin0 i, F32.fin0 q⟩)))
        tau := F32.sub s.tau F32.one
        theta := F32.wrap (F32.add s.theta s.nu) }

/-- SAMPLE completes at a strobe (41_demodulator.md R169 to R181): both loops are updated from the discriminants that the
state before any update gives, the symbol and its decided byte are presented in order, and the extractor and the packer
move as `Extract(neg)` moves them from the state before. -/
def Obligations.SampleAtStrobe : Prop :=
  ∀ (s : State) (i q : F32), s.run = true → IsStrobe s →
    ∃ t, exec (.sample i q) s = .next t ∧
      let d := detect (countedDown ⟨i, q⟩ s)
      let ep := discr s.act.regs.errClamp d.ep
      let et := discr s.act.regs.errClamp d.et
      t.nu = F32.clamp (F32.add s.nu (F32.mul s.act.regs.loopOmega ep)) (F32.neg s.act.regs.freqLimit)
        s.act.regs.freqLimit ∧
      t.theta = F32.wrap (F32.add (F32.add s.theta (F32.mul s.act.regs.loopMu ep)) t.nu) ∧
      t.tacc = F32.clamp (F32.add s.tacc (F32.mul s.act.regs.timOmega et)) (F32.neg s.act.rlim) s.act.rlim ∧
      t.tau = F32.add (F32.sub s.tau F32.one)
        (F32.clamp (F32.add (F32.add s.act.sps t.tacc) (F32.mul s.act.regs.timMu et)) s.act.tmin s.act.tmax) ∧
      t.mufrac = F32.sub F32.zero (F32.sub s.tau F32.one) ∧
      t.nfErr = (s.nfErr || !F32.isFinite d.ep || !F32.isFinite d.et) ∧
      (let e := extract d.neg s;
        t.wreg = e.wreg ∧ t.fill = e.fill ∧ t.miss = e.miss ∧ t.sync = e.sync ∧ t.pol = e.pol ∧
        t.stderr = e.stderr ∧ t.pkCount = e.pkCount ∧ t.pkBuf = e.pkBuf) ∧
      (∃ yi yq rest,
        t.events = s.events ++ [.symOut yi yq, .bitOut (if (!d.neg) != s.pol then 1#8 else 0#8)] ++ rest ∧
        (F32.isNaN d.yOn.i = false → yi = d.yOn.i) ∧ (F32.isNaN d.yOn.i = true → F32.isNaN yi = true) ∧
        (F32.isNaN d.yOn.q = false → yq = d.yOn.q) ∧ (F32.isNaN d.yOn.q = true → F32.isNaN yq = true))

/-- 41_demodulator.md R160 and its "Flags written" and "Events raised": what an accepted SAMPLE leaves alone, strobe or
not. -/
def Obligations.SampleFrame : Prop :=
  ∀ (s t : State) (i q : F32), s.run = true → exec (.sample i q) s = .next t →
    t.cfg = s.cfg ∧ t.act = s.act ∧ t.run = s.run ∧ t.cfgErr = s.cfgErr ∧ t.cfgCode = s.cfgCode ∧
    t.badCmd = s.badCmd ∧ t.badAccess = s.badAccess ∧ t.inbox = s.inbox ∧ t.result = s.result ∧
    (¬ IsStrobe s →
      t.nu = s.nu ∧ t.tacc = s.tacc ∧ t.mufrac = s.mufrac ∧ t.nfErr = s.nfErr ∧ t.wreg = s.wreg ∧ t.fill = s.fill ∧
      t.miss = s.miss ∧ t.sync = s.sync ∧ t.pol = s.pol ∧ t.stderr = s.stderr ∧ t.pkCount = s.pkCount ∧
      t.pkBuf = s.pkBuf ∧ t.events = s.events ∧ t.nanDraws = s.nanDraws)

/-- 41_demodulator.md R162, R163, R165, R166, strobe or not: both delay lines shift by one, the newest entries are the
sanitised input and the sanitised filter output, the oldest are dropped, and NF_IN and NF_MF are raised where the input or
the filter output was not finite. -/
def Obligations.SampleShiftsBothDelayLines : Prop :=
  ∀ (s t : State) (i q : F32), s.run = true → exec (.sample i q) s = .next t →
    t.xl[0] = ⟨F32.fin0 i, F32.fin0 q⟩ ∧
    (∀ k (h : k + 1 < Config.mfMax), t.xl[k + 1] = s.xl[k]) ∧
    t.dl[0] = ⟨F32.fin0 (matchedFilter s.act t.xl).i, F32.fin0 (matchedFilter s.act t.xl).q⟩ ∧
    (∀ k (h : k + 1 < Config.dlLen), t.dl[k + 1] = s.dl[k]) ∧
    t.nfIn = (s.nfIn || !(F32.isFinite i && F32.isFinite q)) ∧
    t.nfMf = (s.nfMf || !(F32.isFinite (matchedFilter s.act t.xl).i && F32.isFinite (matchedFilter s.act t.xl).q))

/-- 20_memory.md R78, 41_demodulator.md R182: an accepted SAMPLE presents nothing, or one SYM_OUT and one BIT_OUT, or these
and one GROUP_OUT, in that order; and it presents a symbol exactly at a strobe. -/
def Obligations.SampleEventsComeInOrder : Prop :=
  ∀ (s t : State) (i q : F32), s.run = true → exec (.sample i q) s = .next t →
    (¬ IsStrobe s ∧ t.events = s.events) ∨
    (IsStrobe s ∧ ∃ yi yq b, t.events = s.events ++ [.symOut yi yq, .bitOut b] ∨
      ∃ bytes, t.events = s.events ++ [.symOut yi yq, .bitOut b, .groupOut bytes])

/-- 41_demodulator.md R168, R169: in a running, sound state a SAMPLE is a strobe exactly when at most one sample was left
to count; otherwise TAU loses exactly 1.0, with no rounding. -/
def Obligations.CountdownIsExact : Prop :=
  ∀ s : State, Sound s → s.run = true →
    (IsStrobe s ↔ F32.units s.tau ≤ F32.units F32.one) ∧
    (¬ IsStrobe s → ∀ i q, ∃ t, exec (.sample i q) s = .next t ∧
      F32.units t.tau = F32.units s.tau - F32.units F32.one)

/-- 41_demodulator.md R164: the filter is the sum over taps from tap 0 upward, one rounding per operation. -/
def Obligations.FilterAddsTapByTap : Prop :=
  ∀ (a : Active) (xl : Vector Cplx Config.mfMax),
    (a.regs.filterSpan = 0#32 → matchedFilter a xl = ⟨F32.zero, F32.zero⟩) ∧
    ∀ (n : Nat) (h : n < Config.mfMax), a.regs.filterSpan = BitVec.ofNat 32 (n + 1) →
      let shorter := matchedFilter { a with regs := { a.regs with filterSpan := BitVec.ofNat 32 n } } xl
      matchedFilter a xl =
        ⟨F32.add shorter.i (F32.mul a.regs.h[n] xl[n].i), F32.add shorter.q (F32.mul a.regs.h[n] xl[n].q)⟩

/-- 41_demodulator.md R164: with one tap of 1.0 the filter passes a finite input through, but for `-0.0`, which becomes
`+0.0`. -/
def Obligations.OneUnitTapPassesThrough : Prop :=
  ∀ (a : Active) (xl : Vector Cplx Config.mfMax),
    a.regs.filterSpan = 1#32 → a.regs.h[0] = F32.one → finiteC xl[0] = true →
    matchedFilter a xl = ⟨if F32.isZero xl[0].i then F32.zero else xl[0].i,
      if F32.isZero xl[0].q then F32.zero else xl[0].q⟩

/-- 41_demodulator.md R167: at `p = 0.0` the interpolator gives entry `j`, at `p = 1.0` entry `j + 1`, up to the sign of a
zero, for finite entries. -/
def Obligations.InterpolatorMeetsItsEndpoints : Prop :=
  ∀ (dl : Vector Cplx Config.dlLen) (j : Nat) (h : j + 1 < Config.dlLen),
    finiteC dl[j] = true → finiteC dl[j + 1] = true →
    (SameButZeroSign (interp dl j F32.zero).i dl[j].i ∧ SameButZeroSign (interp dl j F32.zero).q dl[j].q) ∧
    (SameButZeroSign (interp dl j F32.one).i dl[j + 1].i ∧ SameButZeroSign (interp dl j F32.one).q dl[j + 1].q)

/-- 41_demodulator.md R171: with the phase at +0.0 or -0.0 the derotation gives its argument back, up to the sign of a zero,
whatever function TRIG is. -/
def Obligations.ZeroPhaseDoesNotRotate : Prop :=
  ∀ (v : Cplx) (theta : F32), finiteC v = true → F32.isZero theta = true →
    SameButZeroSign (derot v (F32.trig theta)).i v.i ∧ SameButZeroSign (derot v (F32.trig theta)).q v.q

/-- 41_demodulator.md R169 to R174: the three interpolation points are derotated by one angle; the decision is the sign of
the on-time in-phase value (a zero or a NaN is not negative); and the two discriminants are, with that sign and exactly,
the on-time quadrature value and the late minus the early in-phase value. -/
def Obligations.DetectorsAreDecisionDirected : Prop :=
  ∀ s : State,
    let p := F32.sub F32.zero s.tau
    let point := fun j => derot (interp s.dl j p) (F32.trig s.theta)
    let lateMinusEarly := F32.sub (point 0).i (point (2 * s.act.regs.elSpacing.toNat)).i
    (detect s).p = p ∧ (detect s).yOn = point s.act.regs.elSpacing.toNat ∧
    ((detect s).neg = true ↔ F32.isNaN (detect s).yOn.i = false ∧ F32.units (detect s).yOn.i < 0) ∧
    (F32.isNaN (detect s).yOn.q = false →
      (detect s).ep = if (detect s).neg then F32.neg (detect s).yOn.q else (detect s).yOn.q) ∧
    (F32.isNaN lateMinusEarly = false →
      (detect s).et = if (detect s).neg then F32.neg lateMinusEarly else lateMinusEarly)

/-- 41_demodulator.md R177: with TIM_LIMIT zero in a valid configuration, every symbol period is exactly SPS, whatever the
discriminant: the timing loop is open. -/
def Obligations.ZeroTimingLimitOpensTheLoop : Prop :=
  ∀ (c : CfgRegs) (et tacc : F32), validate c = 0#4 → F32.isZero c.timLimit = true →
    Bounded (F32.neg c.errClamp) et c.errClamp →
    Bounded (F32.neg (latchActive c).rlim) tacc (latchActive c).rlim →
    nextPeriod et tacc (latchActive c) = (latchActive c).sps

/-- 41_demodulator.md R186: nothing in the loops reads POL, SYNC, the window, the counters, STDERR, the packer or the
unique word. -/
def Obligations.LoopsIgnoreTheExtractor : Prop :=
  ∀ (s t : State) (i q : F32) (patLo patHi : Word) (mask wreg : BitVec 64) (fill : BitVec 7) (miss : BitVec 32)
    (sync pol : Bool) (stderr : F32) (pkCount : BitVec 13) (pkBuf : List Byte),
    exec (.sample i q) s = .next t →
    ∃ t', exec (.sample i q)
        { s with
          act := { s.act with regs := { s.act.regs with uwPatLo := patLo, uwPatHi := patHi }, maskN := mask }
          wreg := wreg, fill := fill, miss := miss, sync := sync, pol := pol, stderr := stderr
          pkCount := pkCount, pkBuf := pkBuf } = .next t' ∧
      t'.theta = t.theta ∧ t'.nu = t.nu ∧ t'.tacc = t.tacc ∧ t'.tau = t.tau ∧ t'.mufrac = t.mufrac ∧
      t'.xl = t.xl ∧ t'.dl = t.dl

/-! ### Extractor (42_symbol_extractor.md) -/

/-- 42_symbol_extractor.md R200, R201, R209: a symbol presents one BIT_OUT first, whatever SYNC and FILL are: the raw bit
(0 for a negative decision) with the polarity from before this symbol's correlation. -/
def Obligations.ByteUsesThePolarityBeforeTheWindow : Prop :=
  ∀ (neg : Bool) (s : State),
    ∃ rest, (extract neg s).events =
      s.events ++ .bitOut (if (if neg then false else true) = s.pol then 0x00#8 else 0x01#8) :: rest

/-- 42_symbol_extractor.md R202, R203: the window takes the raw bit at bit 0 and drops its oldest; FILL counts up to UW_LEN;
while it is not full, SYNC, POL, MISS and STDERR do not change. -/
def Obligations.WindowShiftsAndFills : Prop :=
  ∀ (neg : Bool) (s : State), s.act.regs.uwLen.toNat ≤ 64 →
    (extract neg s).wreg.toNat = (s.wreg.toNat * 2 + (if neg then 0 else 1)) % 2 ^ 64 ∧
    (extract neg s).fill.toNat =
      (if s.fill.toNat < s.act.regs.uwLen.toNat then s.fill.toNat + 1 else s.fill.toNat) ∧
    ((extract neg s).fill.toNat ≠ s.act.regs.uwLen.toNat →
      (extract neg s).sync = s.sync ∧ (extract neg s).pol = s.pol ∧ (extract neg s).miss = s.miss ∧
      (extract neg s).stderr = s.stderr)

/-- 42_symbol_extractor.md R205 to R208: the state machine and the error estimate at every evaluated window. -/
def Obligations.LockMachineAndErrorEstimate : Prop :=
  ∀ (neg : Bool) (s : State), s.act.regs.uwLen.toNat ≤ 64 →
    (extract neg s).fill.toNat = s.act.regs.uwLen.toNat →
    let t := extract neg s
    let m := correlate s.act t.wreg
    let reached := s.act.regs.uwThresh.toNat ≤ m.best
    (reached → t.sync = true ∧ t.pol = m.inverted ∧ t.miss = 0#32) ∧
    (¬ reached → s.sync = false → t.sync = false ∧ t.pol = s.pol ∧ t.miss = s.miss) ∧
    (¬ reached → s.sync = true → s.miss.toNat + 1 < s.act.regs.unlockN.toNat →
      t.sync = true ∧ t.pol = s.pol ∧ t.miss.toNat = s.miss.toNat + 1) ∧
    (¬ reached → s.sync = true → s.act.regs.unlockN.toNat ≤ s.miss.toNat + 1 →
      t.sync = false ∧ t.pol = s.pol ∧ t.miss = 0#32) ∧
    t.stderr = F32.add s.stderr (F32.mul s.act.regs.seK
      (F32.sub (F32.div (F32.ofNat (s.act.regs.uwLen.toNat - m.best)) s.act.nf) s.stderr))

/-- 42_symbol_extractor.md R204, with the active configuration of a valid START: `dist` counts the window bits that differ
from the pattern, and for the complemented window the bits that agree; the better score is at least half of UW_LEN, and
a tie is the normal polarity. -/
def Obligations.DualCorrelation : Prop :=
  ∀ (c : CfgRegs) (w : BitVec 64), validate c = 0#4 →
    let a := latchActive c
    let n := c.uwLen.toNat
    distance a w = (List.range n).countP (fun j => w.getLsbD j != c.uwPat.getLsbD j) ∧
    distance a w ≤ n ∧ distance a (~~~ w) = n - distance a w ∧
    (correlate a w).best = max (n - distance a w) (distance a w) ∧
    ((correlate a w).inverted = true ↔ n - distance a w < distance a w) ∧
    n ≤ 2 * (correlate a w).best ∧ (correlate a w).best ≤ n

/-! ### Packer (43_symbol_packer.md) -/

/-- 43_symbol_packer.md R230 to R232: a byte is appended in arrival order; the byte that fills the group delivers it, with
exactly GROUP_SIZE bytes, oldest first, and the buffer starts afresh; nothing else changes. -/
def Obligations.PackAppendsThenDelivers : Prop :=
  ∀ (b : Byte) (s : State), ControlSound s → s.run = true →
    (s.pkCount.toNat + 1 < s.act.regs.groupSize.toNat →
      (pack b s).pkCount.toNat = s.pkCount.toNat + 1 ∧
      pack b s = { s with pkBuf := s.pkBuf ++ [b], pkCount := (pack b s).pkCount }) ∧
    (s.pkCount.toNat + 1 = s.act.regs.groupSize.toNat →
      pack b s = { s with pkBuf := [], pkCount := 0#13, events := s.events ++ [.groupOut (s.pkBuf ++ [b])] } ∧
      (s.pkBuf ++ [b]).length = s.act.regs.groupSize.toNat) ∧
    (s.pkCount.toNat + 1 = s.act.regs.groupSize.toNat ∨ s.pkCount.toNat + 1 < s.act.regs.groupSize.toNat)

/-- 43_symbol_packer.md R236: over any run without START, STOP or reset, the partial group at its start followed by its
BIT_OUT bytes is the concatenation of its GROUP_OUT payloads followed by the partial group at its end. From a START,
where the partial group is empty, the payloads are therefore a prefix of the BIT_OUT bytes. -/
def Obligations.GroupsReproduceTheBits : Prop :=
  ∀ (n : Nat) (s t : State), ControlSound s → (∀ x ∈ s.inbox.take n, KeepsRunning x) →
    Host.Core.run Sys2Proof.core n s = .next t →
    s.pkBuf ++ bitBytes (runEvents n s) = groupBytes (runEvents n s) ++ t.pkBuf

/-- 43_symbol_packer.md R234, R235: over any running stretch without START, STOP or reset, every GROUP_OUT has exactly
GROUP_SIZE bytes, and with `b` symbols decided there are as many groups as fit, the rest staying in the buffer. -/
def Obligations.GroupsAreFullAndCounted : Prop :=
  ∀ (n : Nat) (s t : State), ControlSound s → s.run = true → (∀ x ∈ s.inbox.take n, KeepsRunning x) →
    Host.Core.run Sys2Proof.core n s = .next t →
    (∀ g ∈ groupPayloads (runEvents n s), g.length = s.act.regs.groupSize.toNat) ∧
    s.pkCount.toNat + (bitBytes (runEvents n s)).length =
      s.act.regs.groupSize.toNat * (groupPayloads (runEvents n s)).length + t.pkCount.toNat ∧
    t.pkCount.toNat < s.act.regs.groupSize.toNat

/-! ### Numbers (00_scope.md R10 to R13) -/

/-- 00_scope.md R10: sums and products of finite numbers are rounded to nearest, ties to even, and an exact value at or
past half a step above the largest finite one gives infinity with its sign. The exact value is `num / den` units of
2^-149. -/
def Obligations.SumsAndProductsRoundToNearestEven : Prop :=
  ∀ a b : F32, F32.isFinite a = true → F32.isFinite b = true →
    ((F32.units a + F32.units b).natAbs < (2 ^ 25 - 1) * 2 ^ 252 →
      NearestEven (F32.add a b) (F32.units a + F32.units b) 1) ∧
    ((2 ^ 25 - 1) * 2 ^ 252 ≤ (F32.units a + F32.units b).natAbs →
      F32.add a b = if F32.units a + F32.units b < 0 then 0xFF800000#32 else 0x7F800000#32) ∧
    ((F32.units a * F32.units b).natAbs < (2 ^ 25 - 1) * 2 ^ 252 * 2 ^ 149 →
      NearestEven (F32.mul a b) (F32.units a * F32.units b) (2 ^ 149)) ∧
    ((2 ^ 25 - 1) * 2 ^ 252 * 2 ^ 149 ≤ (F32.units a * F32.units b).natAbs →
      F32.mul a b = if F32.units a * F32.units b < 0 then 0xFF800000#32 else 0x7F800000#32)

/-- 00_scope.md R10: quotients of finite numbers by a nonzero one are rounded to nearest, ties to even, with overflow to
infinity. -/
def Obligations.QuotientsRoundToNearestEven : Prop :=
  ∀ a b : F32, F32.isFinite a = true → F32.isFinite b = true → F32.isZero b = false →
    let num := F32.units a * 2 ^ 149 * (F32.units b).sign
    let den := (F32.units b).natAbs
    (num.natAbs < (2 ^ 25 - 1) * 2 ^ 252 * den → NearestEven (F32.div a b) num den) ∧
    ((2 ^ 25 - 1) * 2 ^ 252 * den ≤ num.natAbs →
      F32.div a b = if num < 0 then 0xFF800000#32 else 0x7F800000#32)

/-- 00_scope.md R13: `Wrap` returns a value of [-PI_F, PI_F) as it is; for any other finite `x` exactly one whole `k` brings
`x - k*TWO_PI_F` into [-PI_F, PI_F), the result is that exact remainder rounded once, or -PI_F where it rounds to PI_F;
the result is in [-PI_F, PI_F). The rounding never changes the remainder: R13 says so within three PI_F, and it holds for
every finite `x` (the model's inference). -/
def Obligations.WrapIsTheExactRemainderRoundedOnce : Prop :=
  ∀ x : F32, F32.isFinite x = true →
    F32.isFinite (F32.wrap x) = true ∧
    - F32.units F32.piF ≤ F32.units (F32.wrap x) ∧ F32.units (F32.wrap x) < F32.units F32.piF ∧
    (- F32.units F32.piF ≤ F32.units x ∧ F32.units x < F32.units F32.piF → F32.wrap x = x) ∧
    ∃ k : Int,
      (∀ j : Int, - F32.units F32.piF ≤ F32.units x - j * F32.units F32.twoPiF ∧
        F32.units x - j * F32.units F32.twoPiF < F32.units F32.piF ↔ j = k) ∧
      (∃ r, NearestEven r (F32.units x - k * F32.units F32.twoPiF) 1 ∧
        F32.units (F32.wrap x) = if r = F32.piF then - F32.units F32.piF else F32.units r) ∧
      F32.units (F32.wrap x) = F32.units x - k * F32.units F32.twoPiF

/-- 00_scope.md R12: `TRIG` obeys its laws for every function it may be: (1.0, +0.0) at both zeros, and finite components
in [-1.0, 1.0] everywhere. (Law (c), that it depends on the angle alone, is its being a function.) -/
def Obligations.TrigObeysItsLaws : Prop :=
  F32.trig 0x00000000#32 = (0x3F800000#32, 0x00000000#32) ∧
  F32.trig 0x80000000#32 = (0x3F800000#32, 0x00000000#32) ∧
  ∀ theta : F32,
    (F32.isFinite (F32.trig theta).1 = true ∧ F32.le F32.negOne (F32.trig theta).1 = true ∧
      F32.le (F32.trig theta).1 F32.one = true) ∧
    (F32.isFinite (F32.trig theta).2 = true ∧ F32.le F32.negOne (F32.trig theta).2 = true ∧
      F32.le (F32.trig theta).2 F32.one = true)

/-! ### Invariants -/

/-- 10_state.md R37 to R39, R27, 40_control.md R128, 42_symbol_extractor.md R207, 70_reset_and_hazards.md R286: every step
keeps the snapshot, counter, lock and report invariants, from every state that meets them. -/
def Obligations.StepKeepsControlSound : Prop :=
  ∀ s t : State, ControlSound s → step s = .next t → ControlSound t

/-- 10_state.md R48: every step keeps the block's state bounded while it runs, from every sound state, for every TRIG. -/
def Obligations.StepKeepsSound : Prop :=
  ∀ s t : State, Sound s → step s = .next t → Sound t

/-- The invariants hold right after power-on reset. -/
def Obligations.ResetIsSound : Prop := Sound State.reset

/-! ### The host's side (40_control.md R133, 70_reset_and_hazards.md R283) -/

/-- 70_reset_and_hazards.md R283: the boot sequence, its writes in any order, presented to any block with a valid
configuration, leaves it running with no configuration error, the configuration latched, and STATUS answered with RUN = 1
and CFG_ERR = 0. (That step 2's optional write is CLR alone is the model's inference, log entry 17.) -/
def Obligations.BootSequenceStartsTheBlock : Prop :=
  ∀ (s : State) (c : CfgRegs) (order : List Reg) (clr : Bool), validate c = 0#4 → order.Perm (bootTargets c) →
    s.inbox = (bootSequence order c clr).map (fun i => .word (encode i)) →
    ∃ t w, Host.Core.run Sys2Proof.core (bootSequence order c clr).length s = .next t ∧
      t.run = true ∧ t.cfgErr = false ∧ t.inbox = [] ∧
      (∀ r ∈ bootTargets c, readReg r { t with cfg := t.act.regs } = cfgValue r c) ∧
      t.result = .response w ∧ w.getLsbD 0 = true ∧ w.getLsbD 3 = false

/-- 40_control.md R133: for a non-negative bandwidth and damping the host's gains lie in [0, 2) and [0, 4), and the
binary32 values the host writes pass check 5. -/
def Obligations.HostGainsPassCheckFive : Prop :=
  ∀ (bandwidth damping : ℚ) (c : CfgRegs), 0 ≤ bandwidth → 0 ≤ damping →
    0 ≤ gainMu bandwidth damping ∧ gainMu bandwidth damping < 2 ∧
    0 ≤ gainOmega bandwidth damping ∧ gainOmega bandwidth damping < 4 ∧
    StartCheck { c with loopMu := f32OfRat (gainMu bandwidth damping),
                        loopOmega := f32OfRat (gainOmega bandwidth damping) } 5
end

