-- ==== Sys2Proof/Laws/Decode.lean ====
section
/-! SUPPORT. The fields of assembled words (30_encoding.md R90 to R95). -/

namespace Sys2Proof

@[simp] theorem kindOf_assembleWord (k : BitVec 8) (h : BitVec 20) (a : Addr) (d : Word) :
    kindOf (assembleWord k h a d) = k := by
  ext j hj
  simp only [kindOf, assembleWord, BitVec.getElem_extractLsb', BitVec.getLsbD_append]
  have h1 : ¬ (64 + j < 32) := by omega
  have h2 : ¬ (64 + j - 32 < 12) := by omega
  have h3 : ¬ (64 + j - 32 - 12 < 20) := by omega
  have h4 : 64 + j - 32 - 12 - 20 = j := by omega
  simp [h1, h2, h3, h4, BitVec.getLsbD_eq_getElem hj]

@[simp] theorem hiOf_assembleWord (k : BitVec 8) (h : BitVec 20) (a : Addr) (d : Word) :
    hiOf (assembleWord k h a d) = h := by
  ext j hj
  simp only [hiOf, assembleWord, BitVec.getElem_extractLsb', BitVec.getLsbD_append]
  have h1 : ¬ (44 + j < 32) := by omega
  have h2 : ¬ (44 + j - 32 < 12) := by omega
  have h4 : 44 + j - 32 - 12 = j := by omega
  simp [h1, h2, h4, hj]

@[simp] theorem addrOf_assembleWord (k : BitVec 8) (h : BitVec 20) (a : Addr) (d : Word) :
    addrOf (assembleWord k h a d) = a := by
  ext j hj
  simp only [addrOf, assembleWord, BitVec.getElem_extractLsb', BitVec.getLsbD_append]
  have h1 : ¬ (32 + j < 32) := by omega
  have h4 : 32 + j - 32 = j := by omega
  simp [h4, hj]

@[simp] theorem dataOf_assembleWord (k : BitVec 8) (h : BitVec 20) (a : Addr) (d : Word) :
    dataOf (assembleWord k h a d) = d := by
  ext j hj
  simp only [dataOf, assembleWord, BitVec.getElem_extractLsb', BitVec.getLsbD_append]
  simp [hj]

/-- A word is the assembly of its four fields (30_encoding.md R90). -/
theorem assembleWord_fields (t : TWord) : assembleWord (kindOf t) (hiOf t) (addrOf t) (dataOf t) = t := by
  apply BitVec.eq_of_getLsbD_eq
  intro j hj
  simp only [kindOf, hiOf, addrOf, dataOf, assembleWord, BitVec.getLsbD_append, BitVec.getLsbD_extractLsb']
  by_cases h1 : j < 32
  · simp [h1]
  · by_cases h2 : j - 32 < 12
    · simp [h1, h2, show 32 + (j - 32) = j by omega]
    · by_cases h3 : j - 32 - 12 < 20
      · simp [h1, h2, h3, show 44 + (j - 32 - 12) = j by omega]
      · simp [h1, h2, h3, show 64 + (j - 32 - 12 - 20) = j by omega, show j - 32 - 12 - 20 < 8 by omega]

@[simp] theorem kindOf_sample (i q : F32) : kindOf (encode (.sample i q)) = 0x01#8 := by
  ext j hj
  simp only [kindOf, encode, BitVec.getElem_extractLsb', BitVec.getLsbD_append]
  have h1 : ¬ (64 + j < 32) := by omega
  have h2 : ¬ (64 + j - 32 < 32) := by omega
  have h4 : 64 + j - 32 - 32 = j := by omega
  simp [h1, h2, h4, BitVec.getLsbD_eq_getElem hj]

@[simp] theorem quadOf_sample (i q : F32) : quadOf (encode (.sample i q)) = q := by
  ext j hj
  simp only [quadOf, encode, BitVec.getElem_extractLsb', BitVec.getLsbD_append]
  have h4 : 32 + j - 32 = j := by omega
  simp [h4, hj]

@[simp] theorem dataOf_sample (i q : F32) : dataOf (encode (.sample i q)) = i := by
  ext j hj
  simp only [dataOf, encode, BitVec.getElem_extractLsb', BitVec.getLsbD_append]
  simp [hj]

@[simp] theorem cmdOf_ctrlData (cmd : BitVec 2) (clr : Bool) : cmdOf (ctrlData cmd clr) = cmd := by
  revert cmd clr; decide

@[simp] theorem clrOf_ctrlData (cmd : BitVec 2) (clr : Bool) : clrOf (ctrlData cmd clr) = clr := by
  revert cmd clr; decide

/-- The four values of a CMD field. -/
theorem cmd_cases (c : BitVec 2) : c = 0#2 ∨ c = 1#2 ∨ c = 2#2 ∨ c = 3#2 := by revert c; decide

/-- The opcode table's rows, as conditions on the fields of a word. -/
theorem covers_iff_fields (r : OpcodeRow) (t : TWord) :
    r.covers t = true ↔
      kindOf t &&& kindOf r.mask = kindOf r.pattern ∧ hiOf t &&& hiOf r.mask = hiOf r.pattern ∧
      addrOf t &&& addrOf r.mask = addrOf r.pattern ∧ dataOf t &&& dataOf r.mask = dataOf r.pattern := by
  have fields : ∀ x : TWord, kindOf (t &&& x) = kindOf t &&& kindOf x ∧ hiOf (t &&& x) = hiOf t &&& hiOf x ∧
      addrOf (t &&& x) = addrOf t &&& addrOf x ∧ dataOf (t &&& x) = dataOf t &&& dataOf x := by
    intro x
    simp [kindOf, hiOf, addrOf, dataOf, BitVec.extractLsb'_and]
  simp only [OpcodeRow.covers, beq_iff_eq]
  obtain ⟨f1, f2, f3, f4⟩ := fields r.mask
  rw [← f1, ← f2, ← f3, ← f4]
  refine ⟨fun h => by rw [h]; exact ⟨rfl, rfl, rfl, rfl⟩, fun ⟨h1, h2, h3, h4⟩ => ?_⟩
  rw [← assembleWord_fields (t &&& r.mask), h1, h2, h3, h4, assembleWord_fields]

end Sys2Proof
end

