-- ==== Sys2Proof/Laws/Float.lean ====
section
/-! SUPPORT. Rounding lands between its neighbours, never past a binary32 value, and ties go to even; what each
operation can answer, in exact units (00_scope.md R10, R11). -/

namespace Sys2Proof.F32

/-! ### The scale of magnitudes -/

/-- The distance, in units, from magnitude `m` to the next one. -/
def gap (m : Nat) : Nat := 2 ^ (m / 2 ^ 23 - 1)

theorem gap_pos (m : Nat) : 0 < gap m := Nat.two_pow_pos _

theorem div_mod_of_split {c f : Nat} (e : Nat) (h : f < c) : (e * c + f) / c = e ∧ (e * c + f) % c = f := by
  constructor
  · rw [Nat.mul_comm, Nat.mul_add_div (by omega), Nat.div_eq_of_lt h, Nat.add_zero]
  · rw [Nat.mul_comm, Nat.mul_add_mod, Nat.mod_eq_of_lt h]

theorem magUnits_binade {e f : Nat} (he : 0 < e) (hf : f < 2 ^ 23) :
    magUnits (e * 2 ^ 23 + f) = (2 ^ 23 + f) * 2 ^ (e - 1) := by
  obtain ⟨h1, h2⟩ := div_mod_of_split e hf
  have : 2 ^ 23 ≤ e * 2 ^ 23 := Nat.le_mul_of_pos_left _ he
  rw [magUnits, if_neg (by omega), h1, h2]

theorem gap_binade {e f : Nat} (hf : f < 2 ^ 23) : gap (e * 2 ^ 23 + f) = 2 ^ (e - 1) := by
  rw [gap, (div_mod_of_split e hf).1]

theorem magUnits_succ (m : Nat) : magUnits (m + 1) = magUnits m + gap m := by
  obtain ⟨e, f, hf, rfl⟩ : ∃ e f, f < 2 ^ 23 ∧ m = e * 2 ^ 23 + f :=
    ⟨m / 2 ^ 23, m % 2 ^ 23, Nat.mod_lt _ (by norm_num), (Nat.div_add_mod' m _).symm⟩
  rw [gap_binade hf]
  rcases e with _ | e
  · rcases Nat.lt_or_ge (f + 1) (2 ^ 23) with hlt | hge
    · simp only [Nat.zero_mul, Nat.zero_add]
      rw [magUnits, magUnits, if_pos hlt, if_pos hf]
      rfl
    · obtain rfl : f = 2 ^ 23 - 1 := by omega
      decide
  · rcases Nat.lt_or_ge (f + 1) (2 ^ 23) with hlt | hge
    · rw [Nat.add_assoc, magUnits_binade (by omega) hlt, magUnits_binade (by omega) hf]
      ring
    · obtain rfl : f = 2 ^ 23 - 1 := by omega
      have h : (e + 1) * 2 ^ 23 + (2 ^ 23 - 1) + 1 = (e + 1 + 1) * 2 ^ 23 + 0 := by ring
      rw [h, magUnits_binade (by omega) (by norm_num), magUnits_binade (by omega) hf,
        show e + 1 + 1 - 1 = (e + 1 - 1) + 1 by omega, pow_succ]
      norm_num
      ring

theorem magUnits_strictMono : StrictMono magUnits :=
  strictMono_nat_of_lt_succ fun m => by rw [magUnits_succ]; have := gap_pos m; omega

theorem magUnits_le_iff {m n : Nat} : magUnits m ≤ magUnits n ↔ m ≤ n := magUnits_strictMono.le_iff_le

theorem magUnits_lt_iff {m n : Nat} : magUnits m < magUnits n ↔ m < n := magUnits_strictMono.lt_iff_lt

@[simp] theorem magUnits_zero : magUnits 0 = 0 := by decide

theorem magUnits_eq_zero {m : Nat} : magUnits m = 0 ↔ m = 0 :=
  ⟨fun h => magUnits_strictMono.injective (h.trans magUnits_zero.symm), fun h => by rw [h, magUnits_zero]⟩

/-! ### Rounding -/

/-- The magnitude at or just below `num / den` units. -/
def floorMag (num den : Nat) : Nat := roundStep num den * 2 ^ 23 + num / (den * 2 ^ roundStep num den)

theorem quotient_bounds {num den : Nat} :
    num / (den * 2 ^ roundStep num den) < 2 ^ 24 ∧
      (roundStep num den ≠ 0 → 2 ^ 23 ≤ num / (den * 2 ^ roundStep num den)) := by
  rw [← Nat.div_div_eq_div_mul]
  unfold roundStep
  set q := num / den
  rcases Nat.eq_zero_or_pos q with hq | hq
  · simp [hq, Nat.log2_zero]
  · have hlo : 2 ^ q.log2 ≤ q := Nat.log2_self_le (by omega)
    have hhi : q < 2 ^ (q.log2 + 1) := Nat.lt_log2_self
    rcases Nat.lt_or_ge q.log2 24 with h | h
    · have h0 : q.log2 - 23 = 0 := by omega
      have : 2 ^ (q.log2 + 1) ≤ 2 ^ 24 := Nat.pow_le_pow_right (by norm_num) (by omega)
      rw [h0]
      exact ⟨by simp; omega, fun c => absurd rfl c⟩
    · obtain ⟨j, hj⟩ : ∃ j, q.log2 = j + 23 := ⟨q.log2 - 23, by omega⟩
      rw [hj] at hlo hhi ⊢
      have e : j + 23 - 23 = j := by omega
      rw [e]
      refine ⟨?_, fun _ => ?_⟩
      · rw [Nat.div_lt_iff_lt_mul (Nat.two_pow_pos _), ← pow_add]
        simpa [show 24 + j = j + 23 + 1 by omega] using hhi
      · rw [Nat.le_div_iff_mul_le (Nat.two_pow_pos _), ← pow_add]
        simpa [show 23 + j = j + 23 by omega] using hlo

theorem gap_floorMag (num den : Nat) : gap (floorMag num den) = 2 ^ roundStep num den := by
  have h := @quotient_bounds num den
  unfold gap floorMag
  congr 1
  generalize num / (den * 2 ^ roundStep num den) = q at *
  generalize roundStep num den = k at *
  simp only [Nat.reducePow] at *
  omega

theorem magUnits_floorMag (num den : Nat) :
    magUnits (floorMag num den) = num / (den * 2 ^ roundStep num den) * 2 ^ roundStep num den := by
  have h := @quotient_bounds num den
  unfold magUnits floorMag
  generalize num / (den * 2 ^ roundStep num den) = q at *
  generalize roundStep num den = k at *
  simp only [Nat.reducePow] at *
  rcases Nat.eq_zero_or_pos k with rfl | hk
  · rcases Nat.lt_or_ge q 8388608 with hq | hq
    · rw [if_pos (by omega)]; simp
    · rw [if_neg (by omega), show (0 * 8388608 + q) % 8388608 = q - 8388608 by omega,
        show (0 * 8388608 + q) / 8388608 - 1 = 0 by omega, show 8388608 + (q - 8388608) = q by omega]
  · have hq := h.2 (by omega)
    rw [if_neg (by omega), show (k * 8388608 + q) % 8388608 = q - 8388608 by omega,
      show (k * 8388608 + q) / 8388608 - 1 = k by omega, show 8388608 + (q - 8388608) = q by omega]

/-- The exact value lies from its floor magnitude up to, and not at, the next one. -/
theorem floorMag_bracket {num den : Nat} (hd : 0 < den) :
    magUnits (floorMag num den) * den ≤ num ∧ num < magUnits (floorMag num den + 1) * den := by
  have hpos : 0 < den * 2 ^ roundStep num den := Nat.mul_pos hd (Nat.two_pow_pos _)
  have h1 := Nat.div_mul_le_self num (den * 2 ^ roundStep num den)
  have h2 := Nat.lt_div_mul_add hpos (a := num)
  rw [magUnits_succ, gap_floorMag, magUnits_floorMag]
  refine ⟨le_trans (le_of_eq (by ring)) h1, lt_of_lt_of_le h2 (le_of_eq (by ring))⟩

/-- What `roundMag` answers: the floor magnitude when the remainder is less than half of the gap, or is half of it and
the floor is even; else the next magnitude; and never past infinity. -/
theorem roundMag_eq (num den : Nat) :
    roundMag num den =
      min (if 2 * (num - magUnits (floorMag num den) * den) < gap (floorMag num den) * den ∨
              (2 * (num - magUnits (floorMag num den) * den) = gap (floorMag num den) * den ∧
                floorMag num den % 2 = 0)
            then floorMag num den else floorMag num den + 1) infMag := by
  have hr : num - magUnits (floorMag num den) * den = num % (den * 2 ^ roundStep num den) := by
    rw [magUnits_floorMag, Nat.mod_eq_sub_mul_div]
    congr 1
    ring
  have hg : gap (floorMag num den) * den = den * 2 ^ roundStep num den := by rw [gap_floorMag, mul_comm]
  have hp : floorMag num den % 2 = num / (den * 2 ^ roundStep num den) % 2 := by unfold floorMag; omega
  rw [hr, hg, hp]
  unfold roundMag roundHalfEven floorMag
  congr 1
  split <;> omega

theorem roundMag_le_infMag (num den : Nat) : roundMag num den ≤ infMag := Nat.min_le_right _ _

/-- Rounding never passes a binary32 magnitude above the exact value. -/
theorem roundMag_le {num den m : Nat} (hd : 0 < den) (h : num ≤ magUnits m * den) : roundMag num den ≤ m := by
  obtain ⟨h1, h2⟩ := @floorMag_bracket num den hd
  have hm : floorMag num den ≤ m := magUnits_le_iff.1 (Nat.le_of_mul_le_mul_right (h1.trans h) hd)
  rw [roundMag_eq]
  rcases Nat.lt_or_ge (floorMag num den) m with hlt | hge
  · refine (Nat.min_le_left _ _).trans ?_
    split <;> omega
  · have he : floorMag num den = m := by omega
    have h0 : num - magUnits (floorMag num den) * den = 0 := by rw [he]; omega
    have hg : 0 < gap (floorMag num den) * den := Nat.mul_pos (gap_pos _) hd
    rw [h0, if_pos (Or.inl (by simpa using hg))]
    exact (Nat.min_le_left _ _).trans hm

/-- Rounding never passes a binary32 magnitude below the exact value. -/
theorem le_roundMag {num den m : Nat} (hd : 0 < den) (hm : m ≤ infMag) (h : magUnits m * den ≤ num) :
    m ≤ roundMag num den := by
  obtain ⟨-, h2⟩ := @floorMag_bracket num den hd
  have : magUnits m < magUnits (floorMag num den + 1) :=
    Nat.lt_of_mul_lt_mul_right (lt_of_le_of_lt h h2)
  have := magUnits_lt_iff.1 this
  rw [roundMag_eq]
  refine Nat.le_min.2 ⟨?_, hm⟩
  split <;> omega

/-- A binary32 magnitude rounds to itself. -/
theorem roundMag_exact {den m : Nat} (hd : 0 < den) (hm : m ≤ infMag) : roundMag (magUnits m * den) den = m :=
  le_antisymm (roundMag_le hd le_rfl) (le_roundMag hd hm le_rfl)

theorem roundMag_zero {den : Nat} (hd : 0 < den) : roundMag 0 den = 0 := by
  simpa using roundMag_exact (m := 0) hd (by decide)

/-! ### Words -/

theorem mag_lt (x : F32) : mag x < 2 ^ 31 := Nat.mod_lt _ (by norm_num)

theorem toNat_eq (x : F32) : x.toNat = (if sign x then 2 ^ 31 else 0) + mag x := by
  unfold sign mag
  have hx := x.isLt
  rw [← BitVec.testBit_toNat, Nat.testBit_eq_decide_div_mod_eq]
  simp only [Nat.reducePow, decide_eq_true_eq] at *
  split <;> omega

theorem pack_sign_mag (x : F32) : pack (sign x) (mag x) = x := by
  apply BitVec.eq_of_toNat_eq
  rw [pack, BitVec.toNat_ofNat, ← toNat_eq, Nat.mod_eq_of_lt x.isLt]

theorem toNat_pack {neg : Bool} {m : Nat} (hm : m < 2 ^ 31) : (pack neg m).toNat = (if neg then 2 ^ 31 else 0) + m := by
  rw [pack, BitVec.toNat_ofNat]
  apply Nat.mod_eq_of_lt
  split <;> omega

@[simp] theorem mag_pack {neg : Bool} {m : Nat} (hm : m < 2 ^ 31) : mag (pack neg m) = m := by
  rw [mag, toNat_pack hm]
  split <;> omega

@[simp] theorem sign_pack {neg : Bool} {m : Nat} (hm : m < 2 ^ 31) : sign (pack neg m) = neg := by
  have h := toNat_eq (pack neg m)
  rw [toNat_pack hm, mag_pack hm] at h
  cases neg <;> cases hs : sign (pack _ m) <;> simp [hs] at h ⊢

theorem ext_sign_mag {x y : F32} (hs : sign x = sign y) (hm : mag x = mag y) : x = y := by
  rw [← pack_sign_mag x, ← pack_sign_mag y, hs, hm]

theorem neg_eq_pack (x : F32) : neg x = pack (!sign x) (mag x) := by
  apply BitVec.eq_of_toNat_eq
  rw [toNat_pack (mag_lt x), neg, BitVec.toNat_xor]
  have h := toNat_eq x
  have hm := mag_lt x
  cases hs : sign x
  · simp only [hs, Bool.false_eq_true, if_false, Nat.zero_add] at h
    simp only [Bool.not_false, if_true]
    have := Nat.two_pow_add_eq_or_of_lt hm 1
    rw [h, show (0x80000000#32).toNat = 2 ^ 31 from rfl, Nat.xor_comm]
    apply Nat.eq_of_testBit_eq
    intro i
    simp only [mul_one] at this
    rw [this, Nat.testBit_xor, Nat.testBit_or, Nat.testBit_two_pow]
    by_cases hi : 31 = i
    · subst hi; simp [Nat.testBit_lt_two_pow hm]
    · simp [hi]
  · simp only [hs, if_true] at h
    simp only [Bool.not_true, Bool.false_eq_true, if_false, Nat.zero_add]
    have := Nat.two_pow_add_eq_or_of_lt hm 1
    simp only [mul_one] at this
    rw [h, this, show (0x80000000#32).toNat = 2 ^ 31 from rfl]
    apply Nat.eq_of_testBit_eq
    intro i
    rw [Nat.testBit_xor, Nat.testBit_or, Nat.testBit_two_pow]
    by_cases hi : 31 = i
    · subst hi; simp [Nat.testBit_lt_two_pow hm]
    · simp [hi]

@[simp] theorem sign_neg (x : F32) : sign (neg x) = !sign x := by rw [neg_eq_pack, sign_pack (mag_lt x)]

@[simp] theorem mag_neg (x : F32) : mag (neg x) = mag x := by rw [neg_eq_pack, mag_pack (mag_lt x)]

@[simp] theorem isFinite_neg (x : F32) : isFinite (neg x) = isFinite x := by simp [isFinite]

@[simp] theorem isNaN_neg (x : F32) : isNaN (neg x) = isNaN x := by simp [isNaN]

@[simp] theorem isInf_neg (x : F32) : isInf (neg x) = isInf x := by simp [isInf]

@[simp] theorem units_neg (x : F32) : units (neg x) = - units x := by
  unfold units
  cases h : sign x <;> simp [h]

theorem isNaN_of_isFinite {x : F32} (h : isFinite x = true) : isNaN x = false := by
  simp only [isFinite, isNaN, decide_eq_true_eq, decide_eq_false_iff_not] at *
  omega

theorem isInf_of_isFinite {x : F32} (h : isFinite x = true) : isInf x = false := by
  simp only [isFinite, isInf, decide_eq_true_eq, decide_eq_false_iff_not] at *
  omega

/-- A number is finite, an infinity, or a NaN. -/
theorem isFinite_or (x : F32) : isFinite x = true ∨ isInf x = true ∨ isNaN x = true := by
  simp only [isFinite, isInf, isNaN, decide_eq_true_eq]
  omega

theorem isNaN_nanOf (raw : F32) : isNaN (nanOf raw) = true := by
  unfold nanOf
  split
  · assumption
  · decide

theorem nanOf_surjective {x : F32} (h : isNaN x = true) : nanOf x = x := by simp [nanOf, h]

theorem isNaN_nan : isNaN nan = true := isNaN_nanOf _

theorem units_zero_iff {x : F32} : units x = 0 ↔ isZero x = true := by
  simp only [units, isZero, decide_eq_true_eq]
  split <;> simp [magUnits_eq_zero]

/-- Two numbers with one exact value are one word, unless they are zeros. -/
theorem eq_of_units_eq {x y : F32} (h : units x = units y) (hx : units x ≠ 0) : x = y := by
  unfold units at h hx
  have key : sign x = sign y ∧ magUnits (mag x) = magUnits (mag y) := by
    cases hsx : sign x <;> cases hsy : sign y <;> simp [hsx, hsy] at h hx ⊢ <;> omega
  exact ext_sign_mag key.1 (magUnits_strictMono.injective key.2)

/-! ### A rounded signed value against a binary32 value -/

/-- The exact value `num`, negated when `neg`. -/
def signed (neg : Bool) (num : Nat) : Int := if neg then -(num : Int) else num

theorem units_pack {neg : Bool} {m : Nat} (hm : m < 2 ^ 31) : units (pack neg m) = signed neg (magUnits m) := by
  simp [units, signed, sign_pack hm, mag_pack hm]

theorem roundMag_lt (num den : Nat) : roundMag num den < 2 ^ 31 :=
  lt_of_le_of_lt (roundMag_le_infMag num den) (by decide)

theorem isNaN_round (neg : Bool) (num den : Nat) : isNaN (pack neg (roundMag num den)) = false := by
  have := roundMag_le_infMag num den
  simp only [isNaN, mag_pack (roundMag_lt num den), decide_eq_false_iff_not]
  omega

theorem mag_le_infMag {x : F32} (h : isNaN x = false) : mag x ≤ infMag := by
  simpa [isNaN] using h

/-- Rounding a signed value never passes a number below it. -/
theorem le_units_round {x : F32} {neg : Bool} {num den : Nat} (hd : 0 < den) (hx : isNaN x = false)
    (h : units x * den ≤ signed neg num) : units x ≤ units (pack neg (roundMag num den)) := by
  rw [units_pack (roundMag_lt num den)]
  unfold units signed at *
  have hm := mag_le_infMag hx
  cases hs : sign x <;> cases neg <;> simp only [hs, if_true, Bool.false_eq_true, if_false] at h ⊢
  · exact_mod_cast magUnits_le_iff.2 (le_roundMag hd hm (by exact_mod_cast h))
  · have h0 : (magUnits (mag x) * den : Nat) + num ≤ 0 := by
      have : ((magUnits (mag x) * den : Nat) : Int) + num ≤ 0 := by push_cast; linarith
      exact_mod_cast this
    have hx0 : magUnits (mag x) = 0 := by
      rcases Nat.eq_zero_or_pos (magUnits (mag x)) with e | e
      · exact e
      · have := Nat.mul_pos e hd; omega
    have hn : num = 0 := by omega
    simp [hx0, hn, roundMag_zero hd]
  · have : (0 : Int) ≤ magUnits (mag x) := Int.natCast_nonneg _
    have : (0 : Int) ≤ magUnits (roundMag num den) := Int.natCast_nonneg _
    omega
  · have : num ≤ magUnits (mag x) * den := by
      have : (num : Int) ≤ ((magUnits (mag x) * den : Nat) : Int) := by push_cast; linarith
      exact_mod_cast this
    have := magUnits_le_iff.2 (roundMag_le hd this)
    omega

theorem signed_not (neg : Bool) (num : Nat) : signed (!neg) num = - signed neg num := by
  cases neg <;> simp [signed]

/-- Rounding a signed value never passes a number above it. -/
theorem units_round_le {x : F32} {neg : Bool} {num den : Nat} (hd : 0 < den) (hx : isNaN x = false)
    (h : signed neg num ≤ units x * den) : units (pack neg (roundMag num den)) ≤ units x := by
  have hx' : isNaN (F32.neg x) = false := by simpa using hx
  have h' : units (F32.neg x) * den ≤ signed (!neg) num := by
    rw [units_neg, signed_not]; linarith
  have key := le_units_round hd hx' h'
  rw [units_neg, units_pack (roundMag_lt num den), signed_not, ← units_pack (roundMag_lt num den)] at key
  omega

/-- The largest finite magnitude is below infinity's. -/
theorem isFinite_of_units_le {x y : F32} (hy : isFinite y = true)
    (h : |units x| ≤ |units y|) : isFinite x = true := by
  have ha : ∀ z : F32, |units z| = magUnits (mag z) := by
    intro z; unfold units; split <;> simp
  rw [ha, ha] at h
  have := magUnits_le_iff.1 (by exact_mod_cast h : magUnits (mag x) ≤ magUnits (mag y))
  simp only [isFinite, decide_eq_true_eq] at *
  omega

/-! ### What each operation answers -/

theorem signed_decide (n : Int) : signed (decide (n < 0)) n.natAbs = n := by
  unfold signed
  by_cases h : n < 0
  · rw [if_pos (by simpa using h)]; omega
  · rw [if_neg (by simpa using h)]; omega

theorem isNaN_ofUnits (n : Int) : isNaN (ofUnits n) = false := isNaN_round _ _ _

theorem le_units_ofUnits {x : F32} {n : Int} (hx : isNaN x = false) (h : units x ≤ n) : units x ≤ units (ofUnits n) :=
  le_units_round Nat.one_pos hx (by rw [signed_decide]; simpa using h)

theorem units_ofUnits_le {x : F32} {n : Int} (hx : isNaN x = false) (h : n ≤ units x) : units (ofUnits n) ≤ units x :=
  units_round_le Nat.one_pos hx (by rw [signed_decide]; simpa using h)

/-- An exact value that is a binary32 value's rounds to that value. -/
theorem units_ofUnits_units {x : F32} (hx : isNaN x = false) : units (ofUnits (units x)) = units x :=
  le_antisymm (units_ofUnits_le hx le_rfl) (le_units_ofUnits hx le_rfl)

/-- The sum of two finite numbers: the exact sum rounded, +0.0 or -0.0 where the exact sum is zero. -/
theorem add_finite {a b : F32} (ha : isFinite a = true) (hb : isFinite b = true) :
    add a b = if units a + units b = 0 then pack (sign a && sign b) 0 else ofUnits (units a + units b) := by
  simp [add, isNaN_of_isFinite ha, isNaN_of_isFinite hb, isInf_of_isFinite ha, isInf_of_isFinite hb]

theorem isNaN_add_finite {a b : F32} (ha : isFinite a = true) (hb : isFinite b = true) : isNaN (add a b) = false := by
  rw [add_finite ha hb]
  split
  · cases sign a && sign b <;> decide
  · exact isNaN_ofUnits _

theorem units_add_eq {a b : F32} (ha : isFinite a = true) (hb : isFinite b = true) :
    units (add a b) = units (ofUnits (units a + units b)) := by
  rw [add_finite ha hb]
  split
  · next h => rw [h]; cases sign a && sign b <;> decide
  · rfl

theorem le_units_add {a b x : F32} (ha : isFinite a = true) (hb : isFinite b = true) (hx : isNaN x = false)
    (h : units x ≤ units a + units b) : units x ≤ units (add a b) := by
  rw [units_add_eq ha hb]; exact le_units_ofUnits hx h

theorem units_add_le {a b x : F32} (ha : isFinite a = true) (hb : isFinite b = true) (hx : isNaN x = false)
    (h : units a + units b ≤ units x) : units (add a b) ≤ units x := by
  rw [units_add_eq ha hb]; exact units_ofUnits_le hx h

/-- A finite number plus anything but a NaN is no NaN. -/
theorem isNaN_add_left_finite {a b : F32} (ha : isFinite a = true) (hb : isNaN b = false) :
    isNaN (add a b) = false := by
  rcases isFinite_or b with h | h | h
  · exact isNaN_add_finite ha h
  · simp [add, isNaN_of_isFinite ha, isInf_of_isFinite ha, h, hb]
  · simp [h] at hb

theorem mul_finite {a b : F32} (ha : isFinite a = true) (hb : isFinite b = true) :
    mul a b = pack (sign a != sign b) (roundMag (magUnits (mag a) * magUnits (mag b)) (2 ^ 149)) := by
  simp [mul, isNaN_of_isFinite ha, isNaN_of_isFinite hb, isInf_of_isFinite ha, isInf_of_isFinite hb]

theorem isNaN_mul_finite {a b : F32} (ha : isFinite a = true) (hb : isFinite b = true) : isNaN (mul a b) = false := by
  rw [mul_finite ha hb]; exact isNaN_round _ _ _

theorem signed_mul (a b : F32) :
    signed (sign a != sign b) (magUnits (mag a) * magUnits (mag b)) = units a * units b := by
  unfold signed units
  cases sign a <;> cases sign b <;> simp

theorem le_units_mul {a b x : F32} (ha : isFinite a = true) (hb : isFinite b = true) (hx : isNaN x = false)
    (h : units x * 2 ^ 149 ≤ units a * units b) : units x ≤ units (mul a b) := by
  rw [mul_finite ha hb]
  exact le_units_round (by positivity) hx (by rw [signed_mul]; exact_mod_cast h)

theorem units_mul_le {a b x : F32} (ha : isFinite a = true) (hb : isFinite b = true) (hx : isNaN x = false)
    (h : units a * units b ≤ units x * 2 ^ 149) : units (mul a b) ≤ units x := by
  rw [mul_finite ha hb]
  exact units_round_le (by positivity) hx (by rw [signed_mul]; exact_mod_cast h)

theorem div_finite {a b : F32} (ha : isFinite a = true) (hb : isFinite b = true) (h0 : isZero b = false) :
    div a b = pack (sign a != sign b) (roundMag (magUnits (mag a) * 2 ^ 149) (magUnits (mag b))) := by
  simp [div, isNaN_of_isFinite ha, isNaN_of_isFinite hb, isInf_of_isFinite ha, isInf_of_isFinite hb, h0]

/-! ### Comparisons and helpers -/

theorem le_iff {a b : F32} (ha : isNaN a = false) (hb : isNaN b = false) : le a b = true ↔ units a ≤ units b := by
  simp [le, ha, hb]

theorem lt_iff {a b : F32} (ha : isNaN a = false) (hb : isNaN b = false) : lt a b = true ↔ units a < units b := by
  simp [lt, ha, hb]

theorem units_le_of_le {a b : F32} (h : le a b = true) : isNaN a = false ∧ isNaN b = false ∧ units a ≤ units b := by
  simpa [le, and_assoc] using h

theorem units_lt_of_lt {a b : F32} (h : lt a b = true) : isNaN a = false ∧ isNaN b = false ∧ units a < units b := by
  simpa [lt, and_assoc] using h

@[simp] theorem isFinite_fin0 (x : F32) : isFinite (fin0 x) = true := by
  unfold fin0
  split
  · assumption
  · decide

theorem fin0_of_isFinite {x : F32} (h : isFinite x = true) : fin0 x = x := by simp [fin0, h]

/-- `ClampF` answers one of its arguments (00_scope.md R11). -/
theorem clamp_cases (x lo hi : F32) : clamp x lo hi = x ∨ clamp x lo hi = lo ∨ clamp x lo hi = hi := by
  unfold clamp
  split
  · simp
  · split <;> simp

/-- `ClampF` of a number that is no NaN stays between its bounds. -/
theorem clamp_units {x lo hi : F32} (hx : isNaN x = false) (hl : isFinite lo = true) (hh : isFinite hi = true)
    (h : units lo ≤ units hi) :
    isFinite (clamp x lo hi) = true ∧ units lo ≤ units (clamp x lo hi) ∧ units (clamp x lo hi) ≤ units hi := by
  have nl := isNaN_of_isFinite hl
  have nh := isNaN_of_isFinite hh
  unfold clamp
  by_cases h1 : lt x lo = true
  · rw [if_pos h1]; exact ⟨hl, le_rfl, h⟩
  · rw [if_neg h1]
    by_cases h2 : lt hi x = true
    · rw [if_pos h2]; exact ⟨hh, h, le_rfl⟩
    · rw [if_neg h2]
      rw [lt_iff hx nl] at h1
      rw [lt_iff nh hx] at h2
      refine ⟨?_, by omega, by omega⟩
      rcases le_total 0 (units x) with h0 | h0
      · refine isFinite_of_units_le hh ?_
        rw [abs_of_nonneg h0, abs_of_nonneg (by omega)]
        omega
      · refine isFinite_of_units_le hl ?_
        rw [abs_of_nonpos h0, abs_of_nonpos (by omega)]
        omega

end Sys2Proof.F32
end

