-- ==== Sys2Proof/Laws/PerInstr.lean ====
section
/-! SUPPORT. The encoding of every transaction lies in its own row of the opcode table (spec/opcode_table.json). -/

namespace Sys2Proof.Laws.OwnRow

/-- The encoded word of a well-formed transaction matches the pattern of the row that bears its mnemonic. -/
def Statement (i : Instr) : Prop :=
  i.wf = true → ∃ r ∈ opcodeRows, r.mnemonic = i.mnemonic ∧ r.covers (encode i) = true

theorem sample (i q : F32) : Statement (.sample i q) := fun _ =>
  ⟨opcodeRows[0], by decide, rfl, (covers_iff_fields _ _).2 (by rw [kindOf_sample]; exact ⟨by decide, by
    rw [show hiOf opcodeRows[0].mask = 0#20 by decide]; simp; decide, by
    rw [show addrOf opcodeRows[0].mask = 0#12 by decide]; simp; decide, by
    rw [show dataOf opcodeRows[0].mask = 0#32 by decide]; simp; decide⟩)⟩

theorem write (addr : Addr) (data : Word) : Statement (.write addr data) := fun _ =>
  ⟨opcodeRows[5], by decide, rfl, (covers_iff_fields _ _).2 (by
    simp only [encode, kindOf_assembleWord, hiOf_assembleWord, addrOf_assembleWord, dataOf_assembleWord]
    exact ⟨by decide, by decide, by rw [show addrOf opcodeRows[5].mask = 0#12 by decide]; simp; decide, by
      rw [show dataOf opcodeRows[5].mask = 0#32 by decide]; simp; decide⟩)⟩

theorem read (addr : Addr) : Statement (.read addr) := fun _ =>
  ⟨opcodeRows[6], by decide, rfl, (covers_iff_fields _ _).2 (by
    simp only [encode, kindOf_assembleWord, hiOf_assembleWord, addrOf_assembleWord, dataOf_assembleWord]
    exact ⟨by decide, by decide, by rw [show addrOf opcodeRows[6].mask = 0#12 by decide]; simp; decide, by decide⟩)⟩

theorem ctrlNone (clr : Bool) : Statement (.ctrlNone clr) := fun _ =>
  ⟨opcodeRows[1], by decide, rfl, by revert clr; decide⟩

theorem ctrlStart (clr : Bool) : Statement (.ctrlStart clr) := fun _ =>
  ⟨opcodeRows[2], by decide, rfl, by revert clr; decide⟩

theorem ctrlStop (clr : Bool) : Statement (.ctrlStop clr) := fun _ =>
  ⟨opcodeRows[3], by decide, rfl, by revert clr; decide⟩

theorem ctrlRsvd (clr : Bool) : Statement (.ctrlRsvd clr) := fun _ =>
  ⟨opcodeRows[4], by decide, rfl, by revert clr; decide⟩

end Sys2Proof.Laws.OwnRow
end

