-- ==== Sys2Proof/Laws/Rounding.lean ====
section
/-! SUPPORT. Rounding is nearest, ties to even, with overflow to infinity from half a step past the largest finite value on
(00_scope.md R10); it is monotone; what fits is exact, and so is `Wrap` (R13). -/

namespace Sys2Proof.F32
open Sys2Proof.Safety

theorem missBy_eq (y : F32) (num : Int) (den : Nat) : missBy y num den = (units y * den - num).natAbs := rfl

/-- The finite magnitude below half a step past the largest one is not rounded to infinity. -/
theorem roundMag_lt_infMag {num den : Nat} (hd : 0 < den) (h : num < (2 ^ 25 - 1) * 2 ^ 252 * den) :
    roundMag num den < infMag := by
  obtain ⟨h1, h2⟩ := @floorMag_bracket num den hd
  have hlt : floorMag num den < infMag := by
    by_contra hc
    have : magUnits infMag ≤ magUnits (floorMag num den) := magUnits_le_iff.2 (by omega)
    have e : magUnits infMag = 2 ^ 25 * 2 ^ 252 := by decide
    have := Nat.mul_le_mul_right den this
    have : (2 ^ 25 - 1) * 2 ^ 252 * den ≤ 2 ^ 25 * 2 ^ 252 * den := Nat.mul_le_mul_right _ (by norm_num)
    rw [e] at *
    omega
  rw [roundMag_eq]
  rcases Nat.lt_or_ge (floorMag num den + 1) infMag with hf | hf
  · refine lt_of_le_of_lt (Nat.min_le_left _ _) ?_
    split <;> omega
  · have hf' : floorMag num den = infMag - 1 := by omega
    rw [hf']
    have e : magUnits (infMag - 1) = (2 ^ 24 - 1) * 2 ^ 253 := by decide
    have g : gap (infMag - 1) = 2 ^ 253 := by decide
    rw [if_pos]
    · exact lt_of_le_of_lt (Nat.min_le_left _ _) (by decide)
    · left
      rw [e, g]
      have : (2 ^ 25 - 1) * 2 ^ 252 * den = (2 ^ 24 - 1) * 2 ^ 253 * den + 2 ^ 252 * den := by ring
      have : 2 ^ 253 * den = 2 * (2 ^ 252 * den) := by ring
      omega

/-- From half a step past the largest finite magnitude on, the result is infinity. -/
theorem roundMag_eq_infMag {num den : Nat} (hd : 0 < den) (h : (2 ^ 25 - 1) * 2 ^ 252 * den ≤ num) :
    roundMag num den = infMag := by
  obtain ⟨h1, h2⟩ := @floorMag_bracket num den hd
  rw [roundMag_eq]
  apply Nat.min_eq_right
  rcases Nat.lt_or_ge (floorMag num den) infMag with hf | hf
  · have hge : infMag ≤ floorMag num den + 1 := by
      by_contra hc
      have : magUnits (floorMag num den + 1) ≤ magUnits (infMag - 1) := magUnits_le_iff.2 (by omega)
      have e : magUnits (infMag - 1) = (2 ^ 24 - 1) * 2 ^ 253 := by decide
      have := Nat.mul_le_mul_right den this
      have : (2 ^ 24 - 1) * 2 ^ 253 * den ≤ (2 ^ 25 - 1) * 2 ^ 252 * den := Nat.mul_le_mul_right _ (by norm_num)
      rw [e] at *
      omega
    have hf' : floorMag num den = infMag - 1 := by omega
    have e : magUnits (infMag - 1) = (2 ^ 24 - 1) * 2 ^ 253 := by decide
    have g : gap (infMag - 1) = 2 ^ 253 := by decide
    rw [hf', if_neg]
    · decide
    · rw [e, g]
      have : (2 ^ 25 - 1) * 2 ^ 252 * den = (2 ^ 24 - 1) * 2 ^ 253 * den + 2 ^ 252 * den := by ring
      have : 2 ^ 253 * den = 2 * (2 ^ 252 * den) := by ring
      have : (infMag - 1) % 2 = 1 := by decide
      omega
  · split <;> omega

/-- Among finite magnitudes `roundMag` is nearest, ties to even. -/
theorem roundMag_nearest {num den m : Nat} (hd : 0 < den) (hfin : roundMag num den < infMag) :
    ((magUnits (roundMag num den) * den : Int) - num).natAbs ≤ ((magUnits m * den : Int) - num).natAbs ∧
    (((magUnits m * den : Int) - num).natAbs = ((magUnits (roundMag num den) * den : Int) - num).natAbs →
      m ≠ roundMag num den → roundMag num den % 2 = 0) := by
  obtain ⟨h1, h2⟩ := @floorMag_bracket num den hd
  have hr := roundMag_eq num den
  have hs := magUnits_succ (floorMag num den)
  set f := floorMag num den with hf
  rw [hs, Nat.add_mul] at h2
  have hg : 0 < gap f * den := Nat.mul_pos (gap_pos f) hd
  -- the two candidate magnitudes bracket every other
  have hm : m ≤ f ∧ magUnits m * den ≤ magUnits f * den ∨ f + 1 ≤ m ∧ magUnits f * den + gap f * den ≤ magUnits m * den := by
    rcases Nat.lt_or_ge f m with hlt | hle
    · right
      refine ⟨hlt, ?_⟩
      rw [← Nat.add_mul, ← hs]
      exact Nat.mul_le_mul_right _ (magUnits_le_iff.2 hlt)
    · left
      exact ⟨hle, Nat.mul_le_mul_right _ (magUnits_le_iff.2 hle)⟩
  have hstrict : m < f → magUnits m * den < magUnits f * den := fun h =>
    Nat.mul_lt_mul_of_pos_right (magUnits_lt_iff.2 h) hd
  have hstrict' : f + 1 < m → magUnits f * den + gap f * den < magUnits m * den := fun h => by
    rw [← Nat.add_mul, ← hs]
    exact Nat.mul_lt_mul_of_pos_right (magUnits_lt_iff.2 h) hd
  have hr' : roundMag num den = if 2 * (num - magUnits f * den) < gap f * den ∨
      (2 * (num - magUnits f * den) = gap f * den ∧ f % 2 = 0) then f else f + 1 := by
    rw [hr] at hfin ⊢
    omega
  rw [hr']
  split
  · next hc =>
    have e : (magUnits f * den : Int) = ((magUnits f * den : Nat) : Int) := by push_cast; rfl
    have e' : (magUnits m * den : Int) = ((magUnits m * den : Nat) : Int) := by push_cast; rfl
    rw [e, e']
    generalize magUnits f * den = a at *
    generalize magUnits m * den = b at *
    generalize gap f * den = c at *
    omega
  · next hc =>
    have e : (magUnits (f + 1) * den : Int) = ((magUnits f * den + gap f * den : Nat) : Int) := by
      rw [hs]; push_cast; ring
    have e' : (magUnits m * den : Int) = ((magUnits m * den : Nat) : Int) := by push_cast; rfl
    rw [e, e']
    generalize magUnits f * den = a at *
    generalize magUnits m * den = b at *
    generalize gap f * den = c at *
    omega

theorem signed_mul_nat (neg : Bool) (m d : Nat) : signed neg m * d = signed neg (m * d) := by
  cases neg <;> simp [signed]

theorem units_eq_signed (x : F32) : units x = signed (sign x) (magUnits (mag x)) := rfl

/-- Nearness of magnitudes, with a tie only at `P`, is nearness of signed values. -/
theorem signed_nearest {a b n : Nat} {P : Prop} (sa neg : Bool)
    (n1 : ((b : Int) - n).natAbs ≤ ((a : Int) - n).natAbs) (z1 : ((b : Int) - n).natAbs ≤ n)
    (n2 : ((a : Int) - n).natAbs = ((b : Int) - n).natAbs → a ≠ b → P)
    (z2 : n = ((b : Int) - n).natAbs → 0 ≠ b → P) :
    (signed neg b - signed neg n).natAbs ≤ (signed sa a - signed neg n).natAbs ∧
      ((signed sa a - signed neg n).natAbs = (signed neg b - signed neg n).natAbs →
        signed sa a ≠ signed neg b → P) := by
  cases sa <;> cases neg <;> simp only [signed, if_true, Bool.false_eq_true, if_false]
  · exact ⟨n1, fun e h => n2 e (by omega)⟩
  · refine ⟨by omega, fun e h => ?_⟩
    have : a = 0 := by omega
    exact z2 (by omega) (by omega)
  · refine ⟨by omega, fun e h => ?_⟩
    have : a = 0 := by omega
    exact z2 (by omega) (by omega)
  · exact ⟨by omega, fun e h => n2 (by omega) (by omega)⟩

/-- A rounded signed value is nearest, ties to even. -/
theorem nearestEven_round {neg : Bool} {num den : Nat} (hd : 0 < den) (h : num < (2 ^ 25 - 1) * 2 ^ 252 * den) :
    NearestEven (pack neg (roundMag num den)) (signed neg num) den := by
  have hfin := roundMag_lt_infMag hd h
  have hb := roundMag_lt num den
  have key : ∀ y : F32,
      missBy (pack neg (roundMag num den)) (signed neg num) den ≤ missBy y (signed neg num) den ∧
      (missBy y (signed neg num) den = missBy (pack neg (roundMag num den)) (signed neg num) den →
        units y ≠ units (pack neg (roundMag num den)) → roundMag num den % 2 = 0) := by
    intro y
    obtain ⟨n1, n2⟩ := @roundMag_nearest num den (mag y) hd hfin
    obtain ⟨z1, z2⟩ := @roundMag_nearest num den 0 hd hfin
    have scaled : ∀ m : Nat, (magUnits m * den : Int) = ((magUnits m * den : Nat) : Int) := fun m => by push_cast; rfl
    rw [scaled, scaled] at n1 n2 z1 z2
    rw [magUnits_zero, Nat.zero_mul] at z1 z2
    have hne : ∀ m, magUnits m * den ≠ magUnits (roundMag num den) * den → m ≠ roundMag num den :=
      fun m h e => h (by rw [e])
    obtain ⟨k1, k2⟩ := signed_nearest (P := roundMag num den % 2 = 0) (sign y) neg n1 (by simpa using z1)
      (fun e ne => n2 e (hne _ ne)) (fun e ne => z2 (by simpa using e) (fun e0 => ne (by rw [← e0]; simp)))
    rw [missBy_eq, missBy_eq, units_pack hb, units_eq_signed y, signed_mul_nat, signed_mul_nat]
    refine ⟨k1, fun e ne => k2 e fun e' => ne ?_⟩
    rw [← signed_mul_nat, ← signed_mul_nat] at e'
    exact Int.eq_of_mul_eq_mul_right (by omega) e'
  refine ⟨by simpa [isFinite, mag_pack hb] using hfin, fun y _ => (key y).1, fun y _ e ne => ?_⟩
  rw [mag_pack hb]
  exact (key y).2 e ne

/-! ### Exact results -/

/-- Small magnitudes are their own number of units. -/
theorem magUnits_small {m : Nat} (h : m ≤ 2 ^ 24) : magUnits m = m := by
  unfold magUnits
  rcases Nat.lt_or_ge m (2 ^ 23) with h1 | h1
  · rw [if_pos h1]
  · rw [if_neg (by omega)]
    rcases Nat.lt_or_ge m (2 ^ 24) with h2 | h2
    · have e : m / 2 ^ 23 = 1 := by omega
      rw [e]; simp; omega
    · obtain rfl : m = 2 ^ 24 := by omega
      norm_num

/-- A whole number of at most 2^24 steps of size `2 ^ k` is a binary32 magnitude. -/
theorem exists_mag (k : Nat) : ∀ n : Nat, n ≤ 2 ^ 24 → ∃ m, m ≤ (k + 2) * 2 ^ 23 ∧ magUnits m = n * 2 ^ k := by
  induction k with
  | zero => exact fun n h => ⟨n, by omega, by rw [magUnits_small h]; simp⟩
  | succ k ih =>
    intro n h
    rcases Nat.lt_or_ge (2 ^ 23) n with h1 | h1
    · rcases Nat.lt_or_ge n (2 ^ 24) with h2 | h2
      · refine ⟨(k + 2) * 2 ^ 23 + (n - 2 ^ 23), by omega, ?_⟩
        rw [magUnits_binade (by omega) (by omega), show 2 ^ 23 + (n - 2 ^ 23) = n by omega]
        congr 1
      · have hn : n = 2 ^ 24 := by omega
        rw [hn]
        refine ⟨(k + 1 + 2) * 2 ^ 23 + 0, by rw [Nat.add_zero], ?_⟩
        rw [magUnits_binade (by omega) (by omega), show k + 1 + 2 - 1 = k + 1 + 1 by omega, pow_succ 2 (k + 1)]
        generalize 2 ^ (k + 1) = c
        omega
    · obtain ⟨m, hm, h2⟩ := ih (2 * n) (by omega)
      exact ⟨m, hm.trans (Nat.mul_le_mul_right _ (by omega)), by rw [h2, pow_succ, Nat.mul_right_comm, Nat.mul_comm 2 (2 ^ k), Nat.mul_comm]⟩

/-- A multiple of `2 ^ k` units of at most 2^24 steps rounds to itself. -/
theorem units_ofUnits_exact {n : Int} {k : Nat} (hk : k ≤ 253) (hd : 2 ^ k ∣ n.natAbs)
    (h : n.natAbs ≤ 2 ^ 24 * 2 ^ k) : units (ofUnits n) = n := by
  obtain ⟨q, hq⟩ := hd
  have hq24 : q ≤ 2 ^ 24 := by
    rw [hq, mul_comm] at h
    exact Nat.le_of_mul_le_mul_right h (Nat.two_pow_pos k)
  obtain ⟨m, hm, he⟩ := exists_mag k q hq24
  have hmi : m ≤ infMag := by
    have e : infMag = 255 * 2 ^ 23 := by decide
    have : (k + 2) * 2 ^ 23 ≤ 255 * 2 ^ 23 := Nat.mul_le_mul_right _ (by omega)
    omega
  unfold ofUnits
  rw [units_pack (roundMag_lt _ _), hq, mul_comm, ← he]
  have hr := @roundMag_exact 1 m (by norm_num) hmi
  rw [mul_one] at hr
  rw [hr, he, mul_comm, ← hq, signed_decide]

/-- Magnitudes from binade `k + 1` on are multiples of `2 ^ k` units. -/
theorem two_pow_dvd_magUnits {m k : Nat} (h : (k + 1) * 2 ^ 23 ≤ m) : 2 ^ k ∣ magUnits m := by
  have h1 : 2 ^ 23 ≤ m := le_trans (Nat.le_mul_of_pos_left _ (by omega)) h
  unfold magUnits
  rw [if_neg (by omega)]
  apply Dvd.dvd.mul_left
  apply Nat.pow_dvd_pow
  have : k + 1 ≤ m / 2 ^ 23 := by rw [Nat.le_div_iff_mul_le (by norm_num)]; exact h
  omega

theorem natAbs_units (x : F32) : (units x).natAbs = magUnits (mag x) := by
  unfold units; split <;> simp

theorem isFinite_piF : isFinite piF = true := by decide

theorem units_piF : units piF = 13176795 * 2 ^ 127 := by decide

theorem units_twoPiF : units twoPiF = 2 * units piF := by decide

/-- A finite number at least PI_F in magnitude is a multiple of PI_F's step. -/
theorem step_dvd_units {x : F32} (h : units piF ≤ |units x|) : (2 ^ 127 : Int) ∣ units x := by
  have e : |units x| = magUnits (mag x) := by rw [Int.abs_eq_natAbs, natAbs_units]
  have hp : units piF = magUnits (mag piF) := by decide
  rw [e, hp] at h
  have := magUnits_le_iff.1 (by exact_mod_cast h : magUnits (mag piF) ≤ magUnits (mag x))
  have hmp : (127 + 1) * 2 ^ 23 ≤ mag piF := by decide
  have hd := @two_pow_dvd_magUnits (mag x) 127 (by omega)
  rw [← natAbs_units] at hd
  have := Int.natCast_dvd.2 hd
  simpa using this

/-- What `Wrap` answers (00_scope.md R13): a finite number of [-PI_F, PI_F), at the exact remainder of its argument. -/
theorem units_wrap {x : F32} (hx : isFinite x = true) :
    isFinite (wrap x) = true ∧ units (wrap x) = wrapUnits (units x) := by
  have hp := isNaN_of_isFinite isFinite_piF
  have nx := isNaN_of_isFinite hx
  have hnp : isNaN (neg piF) = false := by simpa using hp
  have hpos : 0 < units piF := by rw [units_piF]; positivity
  unfold wrap
  rw [if_neg (by simp [hx])]
  by_cases hin : (le (neg piF) x && lt x piF) = true
  · rw [if_pos hin]
    rw [Bool.and_eq_true, le_iff hnp nx, lt_iff nx hp, units_neg] at hin
    refine ⟨hx, ?_⟩
    rw [wrapUnits, units_twoPiF, Int.emod_eq_of_lt (by omega) (by omega)]
    ring
  · rw [if_neg hin]
    have hout : units x < - units piF ∨ units piF ≤ units x := by
      by_contra hc
      apply hin
      rw [Bool.and_eq_true, le_iff hnp nx, lt_iff nx hp, units_neg]
      omega
    have hdx : (2 ^ 127 : Int) ∣ units x := step_dvd_units (by
      rcases hout with h | h
      · rw [abs_of_nonpos (by omega)]; omega
      · rw [abs_of_nonneg (by omega)]; omega)
    have hdp : (2 ^ 127 : Int) ∣ units piF := by rw [units_piF]; exact Dvd.intro_left _ rfl
    have hb1 := Int.emod_nonneg (units x + units piF) (b := units twoPiF) (by rw [units_twoPiF]; omega)
    have hb2 := Int.emod_lt_of_pos (units x + units piF) (b := units twoPiF) (by rw [units_twoPiF]; omega)
    rw [units_twoPiF] at hb1 hb2
    have hdw : (2 ^ 127 : Int) ∣ wrapUnits (units x) := by
      unfold wrapUnits
      refine dvd_sub ?_ hdp
      rw [Int.emod_def]
      exact dvd_sub (dvd_add hdx hdp) (Dvd.dvd.mul_right (by rw [units_twoPiF]; exact Dvd.dvd.mul_left hdp _) _)
    have hex : units (ofUnits (wrapUnits (units x))) = wrapUnits (units x) := by
      apply units_ofUnits_exact (k := 127) (by norm_num)
      · rw [← Int.natCast_dvd]; exact_mod_cast hdw
      · unfold wrapUnits
        rw [units_twoPiF]
        rw [units_piF] at *
        norm_num at *
        omega
    have hne : ofUnits (wrapUnits (units x)) ≠ piF := by
      intro e
      rw [e] at hex
      unfold wrapUnits at hex
      rw [units_twoPiF] at hex
      omega
    simp only [hne, if_false]
    refine ⟨isFinite_of_units_le isFinite_piF ?_, hex⟩
    rw [hex, abs_of_nonneg hpos.le, abs_le]
    unfold wrapUnits
    rw [units_twoPiF]
    omega

/-- The exact remainder is the argument less a whole number of turns, in [-PI_F, PI_F), and that whole number is unique. -/
theorem wrapUnits_spec (x : Int) :
    - units piF ≤ wrapUnits x ∧ wrapUnits x < units piF ∧
    ∃ k : Int, wrapUnits x = x - k * units twoPiF ∧
      ∀ j : Int, - units piF ≤ x - j * units twoPiF ∧ x - j * units twoPiF < units piF ↔ j = k := by
  have hpos : 0 < units piF := by rw [units_piF]; positivity
  have hb1 := Int.emod_nonneg (x + units piF) (b := units twoPiF) (by rw [units_twoPiF]; omega)
  have hb2 := Int.emod_lt_of_pos (x + units piF) (b := units twoPiF) (by rw [units_twoPiF]; omega)
  have hd := Int.emod_add_mul_ediv (x + units piF) (units twoPiF)
  have ht := units_twoPiF
  unfold wrapUnits
  refine ⟨by omega, by omega, (x + units piF) / units twoPiF, by linarith, fun j => ⟨fun ⟨h1, h2⟩ => ?_, ?_⟩⟩
  · set k := (x + units piF) / units twoPiF
    have e1 : (j - k) * units twoPiF < units twoPiF := by nlinarith
    have e2 : - units twoPiF < (j - k) * units twoPiF := by nlinarith
    have hT : 0 < units twoPiF := by omega
    have : j - k < 1 := by nlinarith
    have : -1 < j - k := by nlinarith
    omega
  · rintro rfl
    constructor <;> linarith

/-- A number of at least 2.0 has an exact half. -/
theorem exists_half {x : F32} (h : 2 * 2 ^ 149 ≤ units x) (hf : isFinite x = true) :
    ∃ y : F32, isFinite y = true ∧ 2 * units y = units x := by
  refine ⟨pack false (mag x - 2 ^ 23), ?_, ?_⟩
  all_goals
    have hs : sign x = false := by
      by_contra hc
      have : sign x = true := by simpa using hc
      unfold units at h
      rw [this] at h
      simp at h
      omega
    have hu : units x = magUnits (mag x) := by unfold units; simp [hs]
    rw [hu] at h
    have hm : mag two ≤ mag x := magUnits_le_iff.1 (by
      have e : magUnits (mag two) = 2 * 2 ^ 149 := by decide
      rw [e]; exact_mod_cast h)
    have hm2 : mag two = 128 * 2 ^ 23 := by decide
    have hl := mag_lt x
  · simp only [isFinite, decide_eq_true_eq] at *
    rw [mag_pack (by omega)]
    omega
  · rw [units_pack (by omega), hu]
    obtain ⟨e, f, hf', he⟩ : ∃ e f, f < 2 ^ 23 ∧ mag x = e * 2 ^ 23 + f :=
      ⟨mag x / 2 ^ 23, mag x % 2 ^ 23, Nat.mod_lt _ (by norm_num), (Nat.div_add_mod' _ _).symm⟩
    have h2 : 128 ≤ e := by omega
    have e1 : mag x - 2 ^ 23 = (e - 1) * 2 ^ 23 + f := by
      rw [he]
      obtain ⟨e', rfl⟩ : ∃ e', e = e' + 1 := ⟨e - 1, by omega⟩
      rw [Nat.add_mul]
      omega
    rw [e1, he, magUnits_binade (by omega) hf', magUnits_binade (by omega) hf',
      show e - 1 = (e - 1 - 1) + 1 by omega, pow_succ]
    simp [signed]
    ring

theorem units_one : units one = 2 ^ 149 := by decide

/-- Counting one whole sample down is exact from 1.0 up to 2^24. -/
theorem units_sub_one {t : F32} (hf : isFinite t = true) (h1 : units one ≤ units t)
    (h2 : units t ≤ 2 ^ 24 * 2 ^ 149) : units (sub t one) = units t - units one := by
  have ht : units t = magUnits (mag t) := by
    have := natAbs_units t
    rw [units_one] at h1
    omega
  have hu1 : units one = magUnits (mag one) := by decide
  have hm1 : mag one ≤ mag t := magUnits_le_iff.1 (by rw [ht, hu1] at h1; exact_mod_cast h1)
  have hb : mag one = 127 * 2 ^ 23 := by decide
  have hlt : mag t ≤ 151 * 2 ^ 23 := by
    apply magUnits_le_iff.1
    have e : magUnits (151 * 2 ^ 23) = 2 ^ 24 * 2 ^ 149 := by decide
    rw [e, ← Nat.cast_le (α := Int), ← ht]
    exact_mod_cast h2
  obtain ⟨e, f, hf', he⟩ : ∃ e f, f < 2 ^ 23 ∧ mag t = e * 2 ^ 23 + f :=
    ⟨mag t / 2 ^ 23, mag t % 2 ^ 23, Nat.mod_lt _ (by norm_num), (Nat.div_add_mod' _ _).symm⟩
  have hm : magUnits (mag t) = (2 ^ 23 + f) * 2 ^ (e - 1) := by rw [he, magUnits_binade (by omega) hf']
  rw [sub, units_add_eq hf (by decide), units_neg]
  have hone : units one = ((2 ^ 149 : Nat) : Int) := by rw [units_one]; norm_num
  rcases Nat.lt_or_ge e 151 with h151 | h151
  · apply units_ofUnits_exact (k := e - 1) (by omega)
    · rw [← Int.natCast_dvd]
      have d1 : ((2 ^ (e - 1) : Nat) : Int) ∣ units t := by
        rw [ht, hm]; exact_mod_cast Dvd.intro_left _ rfl
      have d2 : ((2 ^ (e - 1) : Nat) : Int) ∣ units one := by
        rw [hone]; exact_mod_cast Nat.pow_dvd_pow 2 (by omega)
      exact dvd_add d1 ((dvd_neg).2 d2)
    · have hle : magUnits (mag t) ≤ 2 ^ 24 * 2 ^ (e - 1) := by
        rw [hm]; exact Nat.mul_le_mul_right _ (by omega)
      rw [units_one] at *
      omega
  · have he' : e = 151 := by omega
    have hf0 : f = 0 := by omega
    have htu : units t = 2 ^ 24 * 2 ^ 149 := by rw [ht, hm, he', hf0]; norm_num
    rw [htu, units_one]
    decide

/-! ### Monotonicity -/

/-- Rounding depends on the quotient alone. -/
theorem roundMag_scale {num den c : Nat} (hc : 0 < c) : roundMag (num * c) (den * c) = roundMag num den := by
  have hs : roundStep (num * c) (den * c) = roundStep num den := by
    unfold roundStep; rw [Nat.mul_div_mul_right _ _ hc]
  have hr : ∀ d, roundHalfEven (num * c) (d * c) = roundHalfEven num d := by
    intro d
    unfold roundHalfEven
    rw [Nat.mul_div_mul_right _ _ hc, Nat.mul_mod_mul_right, ← Nat.mul_assoc]
    simp only [Nat.mul_lt_mul_right hc, Nat.mul_left_inj (Nat.ne_of_gt hc)]
  unfold roundMag
  rw [hs, Nat.mul_right_comm den c, hr]

theorem floorMag_mono {a b den : Nat} (hd : 0 < den) (h : a ≤ b) : floorMag a den ≤ floorMag b den := by
  have h1 := (@floorMag_bracket a den hd).1
  have h2 := (@floorMag_bracket b den hd).2
  have : magUnits (floorMag a den) < magUnits (floorMag b den + 1) :=
    Nat.lt_of_mul_lt_mul_right (lt_of_le_of_lt (h1.trans h) h2)
  have := magUnits_lt_iff.1 this
  omega

theorem roundMag_mono_num {a b den : Nat} (hd : 0 < den) (h : a ≤ b) : roundMag a den ≤ roundMag b den := by
  have hf := floorMag_mono hd h
  have h1 := (@floorMag_bracket a den hd).1
  rw [roundMag_eq, roundMag_eq]
  refine min_le_min_right _ ?_
  rcases Nat.lt_or_ge (floorMag a den) (floorMag b den) with hlt | hge
  · split <;> split <;> omega
  · have e : floorMag a den = floorMag b den := by omega
    rw [e] at h1 ⊢
    generalize magUnits (floorMag b den) * den = u at *
    generalize gap (floorMag b den) * den = g at *
    split <;> split <;> omega

/-- Rounding is monotone in the exact value. -/
theorem roundMag_mono {a b da db : Nat} (ha : 0 < da) (hb : 0 < db) (h : a * db ≤ b * da) :
    roundMag a da ≤ roundMag b db := by
  rw [← roundMag_scale (num := a) (den := da) hb, ← roundMag_scale (num := b) (den := db) ha, Nat.mul_comm db da]
  exact roundMag_mono_num (Nat.mul_pos ha hb) h

end Sys2Proof.F32
end

