-- ==== Sys2Proof/Laws/State.lean ====
section
/-! SUPPORT. What each shared operation on State leaves alone, one field at a time, so that no later proof unfolds a
record update. -/

namespace Sys2Proof.Machine

/-! ### Raising and clearing status events (60_exceptions.md R250, 40_control.md R123) -/

@[simp] theorem raise_cfg (e : StatusEvent) (s : State) : (raise e s).cfg = s.cfg := by cases e <;> rfl
@[simp] theorem raise_act (e : StatusEvent) (s : State) : (raise e s).act = s.act := by cases e <;> rfl
@[simp] theorem raise_run (e : StatusEvent) (s : State) : (raise e s).run = s.run := by cases e <;> rfl
@[simp] theorem raise_cfgErr (e : StatusEvent) (s : State) : (raise e s).cfgErr = s.cfgErr := by cases e <;> rfl
@[simp] theorem raise_cfgCode (e : StatusEvent) (s : State) : (raise e s).cfgCode = s.cfgCode := by cases e <;> rfl
@[simp] theorem raise_xl (e : StatusEvent) (s : State) : (raise e s).xl = s.xl := by cases e <;> rfl
@[simp] theorem raise_dl (e : StatusEvent) (s : State) : (raise e s).dl = s.dl := by cases e <;> rfl
@[simp] theorem raise_theta (e : StatusEvent) (s : State) : (raise e s).theta = s.theta := by cases e <;> rfl
@[simp] theorem raise_nu (e : StatusEvent) (s : State) : (raise e s).nu = s.nu := by cases e <;> rfl
@[simp] theorem raise_tacc (e : StatusEvent) (s : State) : (raise e s).tacc = s.tacc := by cases e <;> rfl
@[simp] theorem raise_tau (e : StatusEvent) (s : State) : (raise e s).tau = s.tau := by cases e <;> rfl
@[simp] theorem raise_mufrac (e : StatusEvent) (s : State) : (raise e s).mufrac = s.mufrac := by cases e <;> rfl
@[simp] theorem raise_wreg (e : StatusEvent) (s : State) : (raise e s).wreg = s.wreg := by cases e <;> rfl
@[simp] theorem raise_fill (e : StatusEvent) (s : State) : (raise e s).fill = s.fill := by cases e <;> rfl
@[simp] theorem raise_miss (e : StatusEvent) (s : State) : (raise e s).miss = s.miss := by cases e <;> rfl
@[simp] theorem raise_sync (e : StatusEvent) (s : State) : (raise e s).sync = s.sync := by cases e <;> rfl
@[simp] theorem raise_pol (e : StatusEvent) (s : State) : (raise e s).pol = s.pol := by cases e <;> rfl
@[simp] theorem raise_stderr (e : StatusEvent) (s : State) : (raise e s).stderr = s.stderr := by cases e <;> rfl
@[simp] theorem raise_pkCount (e : StatusEvent) (s : State) : (raise e s).pkCount = s.pkCount := by cases e <;> rfl
@[simp] theorem raise_pkBuf (e : StatusEvent) (s : State) : (raise e s).pkBuf = s.pkBuf := by cases e <;> rfl
@[simp] theorem raise_inbox (e : StatusEvent) (s : State) : (raise e s).inbox = s.inbox := by cases e <;> rfl
@[simp] theorem raise_events (e : StatusEvent) (s : State) : (raise e s).events = s.events := by cases e <;> rfl
@[simp] theorem raise_result (e : StatusEvent) (s : State) : (raise e s).result = s.result := by cases e <;> rfl
@[simp] theorem raise_nanDraws (e : StatusEvent) (s : State) : (raise e s).nanDraws = s.nanDraws := by cases e <;> rfl
@[simp] theorem raiseIf_cfg (c : Bool) (e : StatusEvent) (s : State) : (raiseIf c e s).cfg = s.cfg := by cases c <;> simp [raiseIf]
@[simp] theorem raiseIf_act (c : Bool) (e : StatusEvent) (s : State) : (raiseIf c e s).act = s.act := by cases c <;> simp [raiseIf]
@[simp] theorem raiseIf_run (c : Bool) (e : StatusEvent) (s : State) : (raiseIf c e s).run = s.run := by cases c <;> simp [raiseIf]
@[simp] theorem raiseIf_cfgErr (c : Bool) (e : StatusEvent) (s : State) : (raiseIf c e s).cfgErr = s.cfgErr := by cases c <;> simp [raiseIf]
@[simp] theorem raiseIf_cfgCode (c : Bool) (e : StatusEvent) (s : State) : (raiseIf c e s).cfgCode = s.cfgCode := by cases c <;> simp [raiseIf]
@[simp] theorem raiseIf_xl (c : Bool) (e : StatusEvent) (s : State) : (raiseIf c e s).xl = s.xl := by cases c <;> simp [raiseIf]
@[simp] theorem raiseIf_dl (c : Bool) (e : StatusEvent) (s : State) : (raiseIf c e s).dl = s.dl := by cases c <;> simp [raiseIf]
@[simp] theorem raiseIf_theta (c : Bool) (e : StatusEvent) (s : State) : (raiseIf c e s).theta = s.theta := by cases c <;> simp [raiseIf]
@[simp] theorem raiseIf_nu (c : Bool) (e : StatusEvent) (s : State) : (raiseIf c e s).nu = s.nu := by cases c <;> simp [raiseIf]
@[simp] theorem raiseIf_tacc (c : Bool) (e : StatusEvent) (s : State) : (raiseIf c e s).tacc = s.tacc := by cases c <;> simp [raiseIf]
@[simp] theorem raiseIf_tau (c : Bool) (e : StatusEvent) (s : State) : (raiseIf c e s).tau = s.tau := by cases c <;> simp [raiseIf]
@[simp] theorem raiseIf_mufrac (c : Bool) (e : StatusEvent) (s : State) : (raiseIf c e s).mufrac = s.mufrac := by cases c <;> simp [raiseIf]
@[simp] theorem raiseIf_wreg (c : Bool) (e : StatusEvent) (s : State) : (raiseIf c e s).wreg = s.wreg := by cases c <;> simp [raiseIf]
@[simp] theorem raiseIf_fill (c : Bool) (e : StatusEvent) (s : State) : (raiseIf c e s).fill = s.fill := by cases c <;> simp [raiseIf]
@[simp] theorem raiseIf_miss (c : Bool) (e : StatusEvent) (s : State) : (raiseIf c e s).miss = s.miss := by cases c <;> simp [raiseIf]
@[simp] theorem raiseIf_sync (c : Bool) (e : StatusEvent) (s : State) : (raiseIf c e s).sync = s.sync := by cases c <;> simp [raiseIf]
@[simp] theorem raiseIf_pol (c : Bool) (e : StatusEvent) (s : State) : (raiseIf c e s).pol = s.pol := by cases c <;> simp [raiseIf]
@[simp] theorem raiseIf_stderr (c : Bool) (e : StatusEvent) (s : State) : (raiseIf c e s).stderr = s.stderr := by cases c <;> simp [raiseIf]
@[simp] theorem raiseIf_pkCount (c : Bool) (e : StatusEvent) (s : State) : (raiseIf c e s).pkCount = s.pkCount := by cases c <;> simp [raiseIf]
@[simp] theorem raiseIf_pkBuf (c : Bool) (e : StatusEvent) (s : State) : (raiseIf c e s).pkBuf = s.pkBuf := by cases c <;> simp [raiseIf]
@[simp] theorem raiseIf_inbox (c : Bool) (e : StatusEvent) (s : State) : (raiseIf c e s).inbox = s.inbox := by cases c <;> simp [raiseIf]
@[simp] theorem raiseIf_events (c : Bool) (e : StatusEvent) (s : State) : (raiseIf c e s).events = s.events := by cases c <;> simp [raiseIf]
@[simp] theorem raiseIf_result (c : Bool) (e : StatusEvent) (s : State) : (raiseIf c e s).result = s.result := by cases c <;> simp [raiseIf]
@[simp] theorem raiseIf_nanDraws (c : Bool) (e : StatusEvent) (s : State) : (raiseIf c e s).nanDraws = s.nanDraws := by cases c <;> simp [raiseIf]
@[simp] theorem clearIf_cfg (clr : Bool) (s : State) : (clearIf clr s).cfg = s.cfg := by cases clr <;> rfl
@[simp] theorem clearIf_act (clr : Bool) (s : State) : (clearIf clr s).act = s.act := by cases clr <;> rfl
@[simp] theorem clearIf_run (clr : Bool) (s : State) : (clearIf clr s).run = s.run := by cases clr <;> rfl
@[simp] theorem clearIf_cfgErr (clr : Bool) (s : State) : (clearIf clr s).cfgErr = s.cfgErr := by cases clr <;> rfl
@[simp] theorem clearIf_cfgCode (clr : Bool) (s : State) : (clearIf clr s).cfgCode = s.cfgCode := by cases clr <;> rfl
@[simp] theorem clearIf_xl (clr : Bool) (s : State) : (clearIf clr s).xl = s.xl := by cases clr <;> rfl
@[simp] theorem clearIf_dl (clr : Bool) (s : State) : (clearIf clr s).dl = s.dl := by cases clr <;> rfl
@[simp] theorem clearIf_theta (clr : Bool) (s : State) : (clearIf clr s).theta = s.theta := by cases clr <;> rfl
@[simp] theorem clearIf_nu (clr : Bool) (s : State) : (clearIf clr s).nu = s.nu := by cases clr <;> rfl
@[simp] theorem clearIf_tacc (clr : Bool) (s : State) : (clearIf clr s).tacc = s.tacc := by cases clr <;> rfl
@[simp] theorem clearIf_tau (clr : Bool) (s : State) : (clearIf clr s).tau = s.tau := by cases clr <;> rfl
@[simp] theorem clearIf_mufrac (clr : Bool) (s : State) : (clearIf clr s).mufrac = s.mufrac := by cases clr <;> rfl
@[simp] theorem clearIf_wreg (clr : Bool) (s : State) : (clearIf clr s).wreg = s.wreg := by cases clr <;> rfl
@[simp] theorem clearIf_fill (clr : Bool) (s : State) : (clearIf clr s).fill = s.fill := by cases clr <;> rfl
@[simp] theorem clearIf_miss (clr : Bool) (s : State) : (clearIf clr s).miss = s.miss := by cases clr <;> rfl
@[simp] theorem clearIf_sync (clr : Bool) (s : State) : (clearIf clr s).sync = s.sync := by cases clr <;> rfl
@[simp] theorem clearIf_pol (clr : Bool) (s : State) : (clearIf clr s).pol = s.pol := by cases clr <;> rfl
@[simp] theorem clearIf_stderr (clr : Bool) (s : State) : (clearIf clr s).stderr = s.stderr := by cases clr <;> rfl
@[simp] theorem clearIf_pkCount (clr : Bool) (s : State) : (clearIf clr s).pkCount = s.pkCount := by cases clr <;> rfl
@[simp] theorem clearIf_pkBuf (clr : Bool) (s : State) : (clearIf clr s).pkBuf = s.pkBuf := by cases clr <;> rfl
@[simp] theorem clearIf_inbox (clr : Bool) (s : State) : (clearIf clr s).inbox = s.inbox := by cases clr <;> rfl
@[simp] theorem clearIf_events (clr : Bool) (s : State) : (clearIf clr s).events = s.events := by cases clr <;> rfl
@[simp] theorem clearIf_result (clr : Bool) (s : State) : (clearIf clr s).result = s.result := by cases clr <;> rfl
@[simp] theorem clearIf_nanDraws (clr : Bool) (s : State) : (clearIf clr s).nanDraws = s.nanDraws := by cases clr <;> rfl

/-! ### Outputs, answers and the inbox (00_scope.md R18, 20_memory.md R72, R78) -/

@[simp] theorem emit_cfg (e : OutEvent) (s : State) : (emit e s).cfg = s.cfg := rfl
@[simp] theorem emit_act (e : OutEvent) (s : State) : (emit e s).act = s.act := rfl
@[simp] theorem emit_run (e : OutEvent) (s : State) : (emit e s).run = s.run := rfl
@[simp] theorem emit_cfgErr (e : OutEvent) (s : State) : (emit e s).cfgErr = s.cfgErr := rfl
@[simp] theorem emit_cfgCode (e : OutEvent) (s : State) : (emit e s).cfgCode = s.cfgCode := rfl
@[simp] theorem emit_nfIn (e : OutEvent) (s : State) : (emit e s).nfIn = s.nfIn := rfl
@[simp] theorem emit_nfMf (e : OutEvent) (s : State) : (emit e s).nfMf = s.nfMf := rfl
@[simp] theorem emit_nfErr (e : OutEvent) (s : State) : (emit e s).nfErr = s.nfErr := rfl
@[simp] theorem emit_badCmd (e : OutEvent) (s : State) : (emit e s).badCmd = s.badCmd := rfl
@[simp] theorem emit_badAccess (e : OutEvent) (s : State) : (emit e s).badAccess = s.badAccess := rfl
@[simp] theorem emit_xl (e : OutEvent) (s : State) : (emit e s).xl = s.xl := rfl
@[simp] theorem emit_dl (e : OutEvent) (s : State) : (emit e s).dl = s.dl := rfl
@[simp] theorem emit_theta (e : OutEvent) (s : State) : (emit e s).theta = s.theta := rfl
@[simp] theorem emit_nu (e : OutEvent) (s : State) : (emit e s).nu = s.nu := rfl
@[simp] theorem emit_tacc (e : OutEvent) (s : State) : (emit e s).tacc = s.tacc := rfl
@[simp] theorem emit_tau (e : OutEvent) (s : State) : (emit e s).tau = s.tau := rfl
@[simp] theorem emit_mufrac (e : OutEvent) (s : State) : (emit e s).mufrac = s.mufrac := rfl
@[simp] theorem emit_wreg (e : OutEvent) (s : State) : (emit e s).wreg = s.wreg := rfl
@[simp] theorem emit_fill (e : OutEvent) (s : State) : (emit e s).fill = s.fill := rfl
@[simp] theorem emit_miss (e : OutEvent) (s : State) : (emit e s).miss = s.miss := rfl
@[simp] theorem emit_sync (e : OutEvent) (s : State) : (emit e s).sync = s.sync := rfl
@[simp] theorem emit_pol (e : OutEvent) (s : State) : (emit e s).pol = s.pol := rfl
@[simp] theorem emit_stderr (e : OutEvent) (s : State) : (emit e s).stderr = s.stderr := rfl
@[simp] theorem emit_pkCount (e : OutEvent) (s : State) : (emit e s).pkCount = s.pkCount := rfl
@[simp] theorem emit_pkBuf (e : OutEvent) (s : State) : (emit e s).pkBuf = s.pkBuf := rfl
@[simp] theorem emit_inbox (e : OutEvent) (s : State) : (emit e s).inbox = s.inbox := rfl
@[simp] theorem emit_result (e : OutEvent) (s : State) : (emit e s).result = s.result := rfl
@[simp] theorem emit_nanDraws (e : OutEvent) (s : State) : (emit e s).nanDraws = s.nanDraws := rfl
@[simp] theorem emitSymbol_cfg (y : Cplx) (s : State) : (emitSymbol y s).cfg = s.cfg := rfl
@[simp] theorem emitSymbol_act (y : Cplx) (s : State) : (emitSymbol y s).act = s.act := rfl
@[simp] theorem emitSymbol_run (y : Cplx) (s : State) : (emitSymbol y s).run = s.run := rfl
@[simp] theorem emitSymbol_cfgErr (y : Cplx) (s : State) : (emitSymbol y s).cfgErr = s.cfgErr := rfl
@[simp] theorem emitSymbol_cfgCode (y : Cplx) (s : State) : (emitSymbol y s).cfgCode = s.cfgCode := rfl
@[simp] theorem emitSymbol_nfIn (y : Cplx) (s : State) : (emitSymbol y s).nfIn = s.nfIn := rfl
@[simp] theorem emitSymbol_nfMf (y : Cplx) (s : State) : (emitSymbol y s).nfMf = s.nfMf := rfl
@[simp] theorem emitSymbol_nfErr (y : Cplx) (s : State) : (emitSymbol y s).nfErr = s.nfErr := rfl
@[simp] theorem emitSymbol_badCmd (y : Cplx) (s : State) : (emitSymbol y s).badCmd = s.badCmd := rfl
@[simp] theorem emitSymbol_badAccess (y : Cplx) (s : State) : (emitSymbol y s).badAccess = s.badAccess := rfl
@[simp] theorem emitSymbol_xl (y : Cplx) (s : State) : (emitSymbol y s).xl = s.xl := rfl
@[simp] theorem emitSymbol_dl (y : Cplx) (s : State) : (emitSymbol y s).dl = s.dl := rfl
@[simp] theorem emitSymbol_theta (y : Cplx) (s : State) : (emitSymbol y s).theta = s.theta := rfl
@[simp] theorem emitSymbol_nu (y : Cplx) (s : State) : (emitSymbol y s).nu = s.nu := rfl
@[simp] theorem emitSymbol_tacc (y : Cplx) (s : State) : (emitSymbol y s).tacc = s.tacc := rfl
@[simp] theorem emitSymbol_tau (y : Cplx) (s : State) : (emitSymbol y s).tau = s.tau := rfl
@[simp] theorem emitSymbol_mufrac (y : Cplx) (s : State) : (emitSymbol y s).mufrac = s.mufrac := rfl
@[simp] theorem emitSymbol_wreg (y : Cplx) (s : State) : (emitSymbol y s).wreg = s.wreg := rfl
@[simp] theorem emitSymbol_fill (y : Cplx) (s : State) : (emitSymbol y s).fill = s.fill := rfl
@[simp] theorem emitSymbol_miss (y : Cplx) (s : State) : (emitSymbol y s).miss = s.miss := rfl
@[simp] theorem emitSymbol_sync (y : Cplx) (s : State) : (emitSymbol y s).sync = s.sync := rfl
@[simp] theorem emitSymbol_pol (y : Cplx) (s : State) : (emitSymbol y s).pol = s.pol := rfl
@[simp] theorem emitSymbol_stderr (y : Cplx) (s : State) : (emitSymbol y s).stderr = s.stderr := rfl
@[simp] theorem emitSymbol_pkCount (y : Cplx) (s : State) : (emitSymbol y s).pkCount = s.pkCount := rfl
@[simp] theorem emitSymbol_pkBuf (y : Cplx) (s : State) : (emitSymbol y s).pkBuf = s.pkBuf := rfl
@[simp] theorem emitSymbol_inbox (y : Cplx) (s : State) : (emitSymbol y s).inbox = s.inbox := rfl
@[simp] theorem emitSymbol_result (y : Cplx) (s : State) : (emitSymbol y s).result = s.result := rfl
@[simp] theorem answer_cfg (r : Result) (s : State) : (answer r s).cfg = s.cfg := rfl
@[simp] theorem answer_act (r : Result) (s : State) : (answer r s).act = s.act := rfl
@[simp] theorem answer_run (r : Result) (s : State) : (answer r s).run = s.run := rfl
@[simp] theorem answer_cfgErr (r : Result) (s : State) : (answer r s).cfgErr = s.cfgErr := rfl
@[simp] theorem answer_cfgCode (r : Result) (s : State) : (answer r s).cfgCode = s.cfgCode := rfl
@[simp] theorem answer_nfIn (r : Result) (s : State) : (answer r s).nfIn = s.nfIn := rfl
@[simp] theorem answer_nfMf (r : Result) (s : State) : (answer r s).nfMf = s.nfMf := rfl
@[simp] theorem answer_nfErr (r : Result) (s : State) : (answer r s).nfErr = s.nfErr := rfl
@[simp] theorem answer_badCmd (r : Result) (s : State) : (answer r s).badCmd = s.badCmd := rfl
@[simp] theorem answer_badAccess (r : Result) (s : State) : (answer r s).badAccess = s.badAccess := rfl
@[simp] theorem answer_xl (r : Result) (s : State) : (answer r s).xl = s.xl := rfl
@[simp] theorem answer_dl (r : Result) (s : State) : (answer r s).dl = s.dl := rfl
@[simp] theorem answer_theta (r : Result) (s : State) : (answer r s).theta = s.theta := rfl
@[simp] theorem answer_nu (r : Result) (s : State) : (answer r s).nu = s.nu := rfl
@[simp] theorem answer_tacc (r : Result) (s : State) : (answer r s).tacc = s.tacc := rfl
@[simp] theorem answer_tau (r : Result) (s : State) : (answer r s).tau = s.tau := rfl
@[simp] theorem answer_mufrac (r : Result) (s : State) : (answer r s).mufrac = s.mufrac := rfl
@[simp] theorem answer_wreg (r : Result) (s : State) : (answer r s).wreg = s.wreg := rfl
@[simp] theorem answer_fill (r : Result) (s : State) : (answer r s).fill = s.fill := rfl
@[simp] theorem answer_miss (r : Result) (s : State) : (answer r s).miss = s.miss := rfl
@[simp] theorem answer_sync (r : Result) (s : State) : (answer r s).sync = s.sync := rfl
@[simp] theorem answer_pol (r : Result) (s : State) : (answer r s).pol = s.pol := rfl
@[simp] theorem answer_stderr (r : Result) (s : State) : (answer r s).stderr = s.stderr := rfl
@[simp] theorem answer_pkCount (r : Result) (s : State) : (answer r s).pkCount = s.pkCount := rfl
@[simp] theorem answer_pkBuf (r : Result) (s : State) : (answer r s).pkBuf = s.pkBuf := rfl
@[simp] theorem answer_inbox (r : Result) (s : State) : (answer r s).inbox = s.inbox := rfl
@[simp] theorem answer_events (r : Result) (s : State) : (answer r s).events = s.events := rfl
@[simp] theorem answer_nanDraws (r : Result) (s : State) : (answer r s).nanDraws = s.nanDraws := rfl
@[simp] theorem takeWord_cfg (rest : List Input) (s : State) : (takeWord rest s).cfg = s.cfg := rfl
@[simp] theorem takeWord_act (rest : List Input) (s : State) : (takeWord rest s).act = s.act := rfl
@[simp] theorem takeWord_run (rest : List Input) (s : State) : (takeWord rest s).run = s.run := rfl
@[simp] theorem takeWord_cfgErr (rest : List Input) (s : State) : (takeWord rest s).cfgErr = s.cfgErr := rfl
@[simp] theorem takeWord_cfgCode (rest : List Input) (s : State) : (takeWord rest s).cfgCode = s.cfgCode := rfl
@[simp] theorem takeWord_nfIn (rest : List Input) (s : State) : (takeWord rest s).nfIn = s.nfIn := rfl
@[simp] theorem takeWord_nfMf (rest : List Input) (s : State) : (takeWord rest s).nfMf = s.nfMf := rfl
@[simp] theorem takeWord_nfErr (rest : List Input) (s : State) : (takeWord rest s).nfErr = s.nfErr := rfl
@[simp] theorem takeWord_badCmd (rest : List Input) (s : State) : (takeWord rest s).badCmd = s.badCmd := rfl
@[simp] theorem takeWord_badAccess (rest : List Input) (s : State) : (takeWord rest s).badAccess = s.badAccess := rfl
@[simp] theorem takeWord_xl (rest : List Input) (s : State) : (takeWord rest s).xl = s.xl := rfl
@[simp] theorem takeWord_dl (rest : List Input) (s : State) : (takeWord rest s).dl = s.dl := rfl
@[simp] theorem takeWord_theta (rest : List Input) (s : State) : (takeWord rest s).theta = s.theta := rfl
@[simp] theorem takeWord_nu (rest : List Input) (s : State) : (takeWord rest s).nu = s.nu := rfl
@[simp] theorem takeWord_tacc (rest : List Input) (s : State) : (takeWord rest s).tacc = s.tacc := rfl
@[simp] theorem takeWord_tau (rest : List Input) (s : State) : (takeWord rest s).tau = s.tau := rfl
@[simp] theorem takeWord_mufrac (rest : List Input) (s : State) : (takeWord rest s).mufrac = s.mufrac := rfl
@[simp] theorem takeWord_wreg (rest : List Input) (s : State) : (takeWord rest s).wreg = s.wreg := rfl
@[simp] theorem takeWord_fill (rest : List Input) (s : State) : (takeWord rest s).fill = s.fill := rfl
@[simp] theorem takeWord_miss (rest : List Input) (s : State) : (takeWord rest s).miss = s.miss := rfl
@[simp] theorem takeWord_sync (rest : List Input) (s : State) : (takeWord rest s).sync = s.sync := rfl
@[simp] theorem takeWord_pol (rest : List Input) (s : State) : (takeWord rest s).pol = s.pol := rfl
@[simp] theorem takeWord_stderr (rest : List Input) (s : State) : (takeWord rest s).stderr = s.stderr := rfl
@[simp] theorem takeWord_pkCount (rest : List Input) (s : State) : (takeWord rest s).pkCount = s.pkCount := rfl
@[simp] theorem takeWord_pkBuf (rest : List Input) (s : State) : (takeWord rest s).pkBuf = s.pkBuf := rfl
@[simp] theorem takeWord_nanDraws (rest : List Input) (s : State) : (takeWord rest s).nanDraws = s.nanDraws := rfl

/-! ### The partial group, STOP and a failed START (40_control.md R125, R130) -/

@[simp] theorem discardGroup_cfg (s : State) : (discardGroup s).cfg = s.cfg := rfl
@[simp] theorem discardGroup_act (s : State) : (discardGroup s).act = s.act := rfl
@[simp] theorem discardGroup_run (s : State) : (discardGroup s).run = s.run := rfl
@[simp] theorem discardGroup_cfgErr (s : State) : (discardGroup s).cfgErr = s.cfgErr := rfl
@[simp] theorem discardGroup_cfgCode (s : State) : (discardGroup s).cfgCode = s.cfgCode := rfl
@[simp] theorem discardGroup_nfIn (s : State) : (discardGroup s).nfIn = s.nfIn := rfl
@[simp] theorem discardGroup_nfMf (s : State) : (discardGroup s).nfMf = s.nfMf := rfl
@[simp] theorem discardGroup_nfErr (s : State) : (discardGroup s).nfErr = s.nfErr := rfl
@[simp] theorem discardGroup_badCmd (s : State) : (discardGroup s).badCmd = s.badCmd := rfl
@[simp] theorem discardGroup_badAccess (s : State) : (discardGroup s).badAccess = s.badAccess := rfl
@[simp] theorem discardGroup_xl (s : State) : (discardGroup s).xl = s.xl := rfl
@[simp] theorem discardGroup_dl (s : State) : (discardGroup s).dl = s.dl := rfl
@[simp] theorem discardGroup_theta (s : State) : (discardGroup s).theta = s.theta := rfl
@[simp] theorem discardGroup_nu (s : State) : (discardGroup s).nu = s.nu := rfl
@[simp] theorem discardGroup_tacc (s : State) : (discardGroup s).tacc = s.tacc := rfl
@[simp] theorem discardGroup_tau (s : State) : (discardGroup s).tau = s.tau := rfl
@[simp] theorem discardGroup_mufrac (s : State) : (discardGroup s).mufrac = s.mufrac := rfl
@[simp] theorem discardGroup_wreg (s : State) : (discardGroup s).wreg = s.wreg := rfl
@[simp] theorem discardGroup_fill (s : State) : (discardGroup s).fill = s.fill := rfl
@[simp] theorem discardGroup_miss (s : State) : (discardGroup s).miss = s.miss := rfl
@[simp] theorem discardGroup_sync (s : State) : (discardGroup s).sync = s.sync := rfl
@[simp] theorem discardGroup_pol (s : State) : (discardGroup s).pol = s.pol := rfl
@[simp] theorem discardGroup_stderr (s : State) : (discardGroup s).stderr = s.stderr := rfl
@[simp] theorem discardGroup_inbox (s : State) : (discardGroup s).inbox = s.inbox := rfl
@[simp] theorem discardGroup_events (s : State) : (discardGroup s).events = s.events := rfl
@[simp] theorem discardGroup_result (s : State) : (discardGroup s).result = s.result := rfl
@[simp] theorem discardGroup_nanDraws (s : State) : (discardGroup s).nanDraws = s.nanDraws := rfl
@[simp] theorem stop_cfg (s : State) : (stop s).cfg = s.cfg := rfl
@[simp] theorem stop_act (s : State) : (stop s).act = s.act := rfl
@[simp] theorem stop_cfgErr (s : State) : (stop s).cfgErr = s.cfgErr := rfl
@[simp] theorem stop_cfgCode (s : State) : (stop s).cfgCode = s.cfgCode := rfl
@[simp] theorem stop_nfIn (s : State) : (stop s).nfIn = s.nfIn := rfl
@[simp] theorem stop_nfMf (s : State) : (stop s).nfMf = s.nfMf := rfl
@[simp] theorem stop_nfErr (s : State) : (stop s).nfErr = s.nfErr := rfl
@[simp] theorem stop_badCmd (s : State) : (stop s).badCmd = s.badCmd := rfl
@[simp] theorem stop_badAccess (s : State) : (stop s).badAccess = s.badAccess := rfl
@[simp] theorem stop_xl (s : State) : (stop s).xl = s.xl := rfl
@[simp] theorem stop_dl (s : State) : (stop s).dl = s.dl := rfl
@[simp] theorem stop_theta (s : State) : (stop s).theta = s.theta := rfl
@[simp] theorem stop_nu (s : State) : (stop s).nu = s.nu := rfl
@[simp] theorem stop_tacc (s : State) : (stop s).tacc = s.tacc := rfl
@[simp] theorem stop_tau (s : State) : (stop s).tau = s.tau := rfl
@[simp] theorem stop_mufrac (s : State) : (stop s).mufrac = s.mufrac := rfl
@[simp] theorem stop_wreg (s : State) : (stop s).wreg = s.wreg := rfl
@[simp] theorem stop_fill (s : State) : (stop s).fill = s.fill := rfl
@[simp] theorem stop_miss (s : State) : (stop s).miss = s.miss := rfl
@[simp] theorem stop_sync (s : State) : (stop s).sync = s.sync := rfl
@[simp] theorem stop_pol (s : State) : (stop s).pol = s.pol := rfl
@[simp] theorem stop_stderr (s : State) : (stop s).stderr = s.stderr := rfl
@[simp] theorem stop_inbox (s : State) : (stop s).inbox = s.inbox := rfl
@[simp] theorem stop_events (s : State) : (stop s).events = s.events := rfl
@[simp] theorem stop_result (s : State) : (stop s).result = s.result := rfl
@[simp] theorem stop_nanDraws (s : State) : (stop s).nanDraws = s.nanDraws := rfl
@[simp] theorem failStart_cfg (code : BitVec 4) (s : State) : (failStart code s).cfg = s.cfg := rfl
@[simp] theorem failStart_act (code : BitVec 4) (s : State) : (failStart code s).act = s.act := rfl
@[simp] theorem failStart_run (code : BitVec 4) (s : State) : (failStart code s).run = s.run := rfl
@[simp] theorem failStart_nfIn (code : BitVec 4) (s : State) : (failStart code s).nfIn = s.nfIn := rfl
@[simp] theorem failStart_nfMf (code : BitVec 4) (s : State) : (failStart code s).nfMf = s.nfMf := rfl
@[simp] theorem failStart_nfErr (code : BitVec 4) (s : State) : (failStart code s).nfErr = s.nfErr := rfl
@[simp] theorem failStart_badCmd (code : BitVec 4) (s : State) : (failStart code s).badCmd = s.badCmd := rfl
@[simp] theorem failStart_badAccess (code : BitVec 4) (s : State) : (failStart code s).badAccess = s.badAccess := rfl
@[simp] theorem failStart_xl (code : BitVec 4) (s : State) : (failStart code s).xl = s.xl := rfl
@[simp] theorem failStart_dl (code : BitVec 4) (s : State) : (failStart code s).dl = s.dl := rfl
@[simp] theorem failStart_theta (code : BitVec 4) (s : State) : (failStart code s).theta = s.theta := rfl
@[simp] theorem failStart_nu (code : BitVec 4) (s : State) : (failStart code s).nu = s.nu := rfl
@[simp] theorem failStart_tacc (code : BitVec 4) (s : State) : (failStart code s).tacc = s.tacc := rfl
@[simp] theorem failStart_tau (code : BitVec 4) (s : State) : (failStart code s).tau = s.tau := rfl
@[simp] theorem failStart_mufrac (code : BitVec 4) (s : State) : (failStart code s).mufrac = s.mufrac := rfl
@[simp] theorem failStart_wreg (code : BitVec 4) (s : State) : (failStart code s).wreg = s.wreg := rfl
@[simp] theorem failStart_fill (code : BitVec 4) (s : State) : (failStart code s).fill = s.fill := rfl
@[simp] theorem failStart_miss (code : BitVec 4) (s : State) : (failStart code s).miss = s.miss := rfl
@[simp] theorem failStart_sync (code : BitVec 4) (s : State) : (failStart code s).sync = s.sync := rfl
@[simp] theorem failStart_pol (code : BitVec 4) (s : State) : (failStart code s).pol = s.pol := rfl
@[simp] theorem failStart_stderr (code : BitVec 4) (s : State) : (failStart code s).stderr = s.stderr := rfl
@[simp] theorem failStart_pkCount (code : BitVec 4) (s : State) : (failStart code s).pkCount = s.pkCount := rfl
@[simp] theorem failStart_pkBuf (code : BitVec 4) (s : State) : (failStart code s).pkBuf = s.pkBuf := rfl
@[simp] theorem failStart_inbox (code : BitVec 4) (s : State) : (failStart code s).inbox = s.inbox := rfl
@[simp] theorem failStart_events (code : BitVec 4) (s : State) : (failStart code s).events = s.events := rfl
@[simp] theorem failStart_result (code : BitVec 4) (s : State) : (failStart code s).result = s.result := rfl
@[simp] theorem failStart_nanDraws (code : BitVec 4) (s : State) : (failStart code s).nanDraws = s.nanDraws := rfl
@[simp] theorem initDatapath_cfg (s : State) : (initDatapath s).cfg = s.cfg := rfl
@[simp] theorem initDatapath_act (s : State) : (initDatapath s).act = s.act := rfl
@[simp] theorem initDatapath_nfIn (s : State) : (initDatapath s).nfIn = s.nfIn := rfl
@[simp] theorem initDatapath_nfMf (s : State) : (initDatapath s).nfMf = s.nfMf := rfl
@[simp] theorem initDatapath_nfErr (s : State) : (initDatapath s).nfErr = s.nfErr := rfl
@[simp] theorem initDatapath_badCmd (s : State) : (initDatapath s).badCmd = s.badCmd := rfl
@[simp] theorem initDatapath_badAccess (s : State) : (initDatapath s).badAccess = s.badAccess := rfl
@[simp] theorem initDatapath_inbox (s : State) : (initDatapath s).inbox = s.inbox := rfl
@[simp] theorem initDatapath_events (s : State) : (initDatapath s).events = s.events := rfl
@[simp] theorem initDatapath_result (s : State) : (initDatapath s).result = s.result := rfl
@[simp] theorem initDatapath_nanDraws (s : State) : (initDatapath s).nanDraws = s.nanDraws := rfl

/-! ### What they change -/

@[simp] theorem sticky_raise (e e' : StatusEvent) (s : State) : sticky e' (raise e s) = (decide (e' = e) || sticky e' s) := by
  cases e <;> cases e' <;> rfl

@[simp] theorem sticky_clearSticky (e : StatusEvent) (s : State) : sticky e (clearSticky s) = false := by
  cases e <;> rfl

@[simp] theorem clearIf_false (s : State) : clearIf false s = s := rfl

@[simp] theorem clearIf_true (s : State) : clearIf true s = clearSticky s := rfl

@[simp] theorem raiseIf_false (e : StatusEvent) (s : State) : raiseIf false e s = s := rfl

@[simp] theorem raiseIf_true (e : StatusEvent) (s : State) : raiseIf true e s = raise e s := rfl

theorem sticky_raiseIf (c : Bool) (e e' : StatusEvent) (s : State) :
    sticky e' (raiseIf c e s) = ((c && decide (e' = e)) || sticky e' s) := by
  cases c <;> simp

@[simp] theorem emit_events (e : OutEvent) (s : State) : (emit e s).events = s.events ++ [e] := rfl

@[simp] theorem stop_run (s : State) : (stop s).run = false := rfl

@[simp] theorem stop_pkCount (s : State) : (stop s).pkCount = 0#13 := rfl

@[simp] theorem stop_pkBuf (s : State) : (stop s).pkBuf = [] := rfl

/-- The two outcomes of START (40_control.md R126). -/
theorem start_cases (s : State) :
    (validate s.cfg ≠ 0#4 ∧ start s = failStart (validate s.cfg) (stop s)) ∨
    (validate s.cfg = 0#4 ∧ start s = initDatapath { stop s with act := latchActive s.cfg }) := by
  unfold start
  by_cases h : validate s.cfg = 0#4
  · right; simp [h]
  · left; simp [h]

end Sys2Proof.Machine
end

