-- ==== Sys2Proof/Laws/Sample.lean ====
section
/-! SUPPORT. What each stage of a SAMPLE leaves alone, one field at a time. -/

namespace Sys2Proof.Machine

/-! ### Packer (43_symbol_packer.md R230) -/

@[simp] theorem pack_cfg (b : Byte) (s : State) : (pack b s).cfg = s.cfg := by unfold pack; split <;> rfl
@[simp] theorem pack_act (b : Byte) (s : State) : (pack b s).act = s.act := by unfold pack; split <;> rfl
@[simp] theorem pack_run (b : Byte) (s : State) : (pack b s).run = s.run := by unfold pack; split <;> rfl
@[simp] theorem pack_cfgErr (b : Byte) (s : State) : (pack b s).cfgErr = s.cfgErr := by unfold pack; split <;> rfl
@[simp] theorem pack_cfgCode (b : Byte) (s : State) : (pack b s).cfgCode = s.cfgCode := by unfold pack; split <;> rfl
@[simp] theorem pack_nfIn (b : Byte) (s : State) : (pack b s).nfIn = s.nfIn := by unfold pack; split <;> rfl
@[simp] theorem pack_nfMf (b : Byte) (s : State) : (pack b s).nfMf = s.nfMf := by unfold pack; split <;> rfl
@[simp] theorem pack_nfErr (b : Byte) (s : State) : (pack b s).nfErr = s.nfErr := by unfold pack; split <;> rfl
@[simp] theorem pack_badCmd (b : Byte) (s : State) : (pack b s).badCmd = s.badCmd := by unfold pack; split <;> rfl
@[simp] theorem pack_badAccess (b : Byte) (s : State) : (pack b s).badAccess = s.badAccess := by unfold pack; split <;> rfl
@[simp] theorem pack_xl (b : Byte) (s : State) : (pack b s).xl = s.xl := by unfold pack; split <;> rfl
@[simp] theorem pack_dl (b : Byte) (s : State) : (pack b s).dl = s.dl := by unfold pack; split <;> rfl
@[simp] theorem pack_theta (b : Byte) (s : State) : (pack b s).theta = s.theta := by unfold pack; split <;> rfl
@[simp] theorem pack_nu (b : Byte) (s : State) : (pack b s).nu = s.nu := by unfold pack; split <;> rfl
@[simp] theorem pack_tacc (b : Byte) (s : State) : (pack b s).tacc = s.tacc := by unfold pack; split <;> rfl
@[simp] theorem pack_tau (b : Byte) (s : State) : (pack b s).tau = s.tau := by unfold pack; split <;> rfl
@[simp] theorem pack_mufrac (b : Byte) (s : State) : (pack b s).mufrac = s.mufrac := by unfold pack; split <;> rfl
@[simp] theorem pack_wreg (b : Byte) (s : State) : (pack b s).wreg = s.wreg := by unfold pack; split <;> rfl
@[simp] theorem pack_fill (b : Byte) (s : State) : (pack b s).fill = s.fill := by unfold pack; split <;> rfl
@[simp] theorem pack_miss (b : Byte) (s : State) : (pack b s).miss = s.miss := by unfold pack; split <;> rfl
@[simp] theorem pack_sync (b : Byte) (s : State) : (pack b s).sync = s.sync := by unfold pack; split <;> rfl
@[simp] theorem pack_pol (b : Byte) (s : State) : (pack b s).pol = s.pol := by unfold pack; split <;> rfl
@[simp] theorem pack_stderr (b : Byte) (s : State) : (pack b s).stderr = s.stderr := by unfold pack; split <;> rfl
@[simp] theorem pack_inbox (b : Byte) (s : State) : (pack b s).inbox = s.inbox := by unfold pack; split <;> rfl
@[simp] theorem pack_result (b : Byte) (s : State) : (pack b s).result = s.result := by unfold pack; split <;> rfl
@[simp] theorem pack_nanDraws (b : Byte) (s : State) : (pack b s).nanDraws = s.nanDraws := by unfold pack; split <;> rfl

/-! ### Extractor (42_symbol_extractor.md R210) -/

@[simp] theorem lockUpdate_cfg (m : Match) (s : State) : (lockUpdate m s).cfg = s.cfg := by unfold lockUpdate; (repeat' split) <;> rfl
@[simp] theorem lockUpdate_act (m : Match) (s : State) : (lockUpdate m s).act = s.act := by unfold lockUpdate; (repeat' split) <;> rfl
@[simp] theorem lockUpdate_run (m : Match) (s : State) : (lockUpdate m s).run = s.run := by unfold lockUpdate; (repeat' split) <;> rfl
@[simp] theorem lockUpdate_cfgErr (m : Match) (s : State) : (lockUpdate m s).cfgErr = s.cfgErr := by unfold lockUpdate; (repeat' split) <;> rfl
@[simp] theorem lockUpdate_cfgCode (m : Match) (s : State) : (lockUpdate m s).cfgCode = s.cfgCode := by unfold lockUpdate; (repeat' split) <;> rfl
@[simp] theorem lockUpdate_nfIn (m : Match) (s : State) : (lockUpdate m s).nfIn = s.nfIn := by unfold lockUpdate; (repeat' split) <;> rfl
@[simp] theorem lockUpdate_nfMf (m : Match) (s : State) : (lockUpdate m s).nfMf = s.nfMf := by unfold lockUpdate; (repeat' split) <;> rfl
@[simp] theorem lockUpdate_nfErr (m : Match) (s : State) : (lockUpdate m s).nfErr = s.nfErr := by unfold lockUpdate; (repeat' split) <;> rfl
@[simp] theorem lockUpdate_badCmd (m : Match) (s : State) : (lockUpdate m s).badCmd = s.badCmd := by unfold lockUpdate; (repeat' split) <;> rfl
@[simp] theorem lockUpdate_badAccess (m : Match) (s : State) : (lockUpdate m s).badAccess = s.badAccess := by unfold lockUpdate; (repeat' split) <;> rfl
@[simp] theorem lockUpdate_xl (m : Match) (s : State) : (lockUpdate m s).xl = s.xl := by unfold lockUpdate; (repeat' split) <;> rfl
@[simp] theorem lockUpdate_dl (m : Match) (s : State) : (lockUpdate m s).dl = s.dl := by unfold lockUpdate; (repeat' split) <;> rfl
@[simp] theorem lockUpdate_theta (m : Match) (s : State) : (lockUpdate m s).theta = s.theta := by unfold lockUpdate; (repeat' split) <;> rfl
@[simp] theorem lockUpdate_nu (m : Match) (s : State) : (lockUpdate m s).nu = s.nu := by unfold lockUpdate; (repeat' split) <;> rfl
@[simp] theorem lockUpdate_tacc (m : Match) (s : State) : (lockUpdate m s).tacc = s.tacc := by unfold lockUpdate; (repeat' split) <;> rfl
@[simp] theorem lockUpdate_tau (m : Match) (s : State) : (lockUpdate m s).tau = s.tau := by unfold lockUpdate; (repeat' split) <;> rfl
@[simp] theorem lockUpdate_mufrac (m : Match) (s : State) : (lockUpdate m s).mufrac = s.mufrac := by unfold lockUpdate; (repeat' split) <;> rfl
@[simp] theorem lockUpdate_wreg (m : Match) (s : State) : (lockUpdate m s).wreg = s.wreg := by unfold lockUpdate; (repeat' split) <;> rfl
@[simp] theorem lockUpdate_fill (m : Match) (s : State) : (lockUpdate m s).fill = s.fill := by unfold lockUpdate; (repeat' split) <;> rfl
@[simp] theorem lockUpdate_stderr (m : Match) (s : State) : (lockUpdate m s).stderr = s.stderr := by unfold lockUpdate; (repeat' split) <;> rfl
@[simp] theorem lockUpdate_pkCount (m : Match) (s : State) : (lockUpdate m s).pkCount = s.pkCount := by unfold lockUpdate; (repeat' split) <;> rfl
@[simp] theorem lockUpdate_pkBuf (m : Match) (s : State) : (lockUpdate m s).pkBuf = s.pkBuf := by unfold lockUpdate; (repeat' split) <;> rfl
@[simp] theorem lockUpdate_inbox (m : Match) (s : State) : (lockUpdate m s).inbox = s.inbox := by unfold lockUpdate; (repeat' split) <;> rfl
@[simp] theorem lockUpdate_events (m : Match) (s : State) : (lockUpdate m s).events = s.events := by unfold lockUpdate; (repeat' split) <;> rfl
@[simp] theorem lockUpdate_result (m : Match) (s : State) : (lockUpdate m s).result = s.result := by unfold lockUpdate; (repeat' split) <;> rfl
@[simp] theorem lockUpdate_nanDraws (m : Match) (s : State) : (lockUpdate m s).nanDraws = s.nanDraws := by unfold lockUpdate; (repeat' split) <;> rfl
@[simp] theorem evaluateWindow_cfg (s : State) : (evaluateWindow s).cfg = s.cfg := by simp [evaluateWindow]
@[simp] theorem evaluateWindow_act (s : State) : (evaluateWindow s).act = s.act := by simp [evaluateWindow]
@[simp] theorem evaluateWindow_run (s : State) : (evaluateWindow s).run = s.run := by simp [evaluateWindow]
@[simp] theorem evaluateWindow_cfgErr (s : State) : (evaluateWindow s).cfgErr = s.cfgErr := by simp [evaluateWindow]
@[simp] theorem evaluateWindow_cfgCode (s : State) : (evaluateWindow s).cfgCode = s.cfgCode := by simp [evaluateWindow]
@[simp] theorem evaluateWindow_nfIn (s : State) : (evaluateWindow s).nfIn = s.nfIn := by simp [evaluateWindow]
@[simp] theorem evaluateWindow_nfMf (s : State) : (evaluateWindow s).nfMf = s.nfMf := by simp [evaluateWindow]
@[simp] theorem evaluateWindow_nfErr (s : State) : (evaluateWindow s).nfErr = s.nfErr := by simp [evaluateWindow]
@[simp] theorem evaluateWindow_badCmd (s : State) : (evaluateWindow s).badCmd = s.badCmd := by simp [evaluateWindow]
@[simp] theorem evaluateWindow_badAccess (s : State) : (evaluateWindow s).badAccess = s.badAccess := by simp [evaluateWindow]
@[simp] theorem evaluateWindow_xl (s : State) : (evaluateWindow s).xl = s.xl := by simp [evaluateWindow]
@[simp] theorem evaluateWindow_dl (s : State) : (evaluateWindow s).dl = s.dl := by simp [evaluateWindow]
@[simp] theorem evaluateWindow_theta (s : State) : (evaluateWindow s).theta = s.theta := by simp [evaluateWindow]
@[simp] theorem evaluateWindow_nu (s : State) : (evaluateWindow s).nu = s.nu := by simp [evaluateWindow]
@[simp] theorem evaluateWindow_tacc (s : State) : (evaluateWindow s).tacc = s.tacc := by simp [evaluateWindow]
@[simp] theorem evaluateWindow_tau (s : State) : (evaluateWindow s).tau = s.tau := by simp [evaluateWindow]
@[simp] theorem evaluateWindow_mufrac (s : State) : (evaluateWindow s).mufrac = s.mufrac := by simp [evaluateWindow]
@[simp] theorem evaluateWindow_wreg (s : State) : (evaluateWindow s).wreg = s.wreg := by simp [evaluateWindow]
@[simp] theorem evaluateWindow_fill (s : State) : (evaluateWindow s).fill = s.fill := by simp [evaluateWindow]
@[simp] theorem evaluateWindow_pkCount (s : State) : (evaluateWindow s).pkCount = s.pkCount := by simp [evaluateWindow]
@[simp] theorem evaluateWindow_pkBuf (s : State) : (evaluateWindow s).pkBuf = s.pkBuf := by simp [evaluateWindow]
@[simp] theorem evaluateWindow_inbox (s : State) : (evaluateWindow s).inbox = s.inbox := by simp [evaluateWindow]
@[simp] theorem evaluateWindow_events (s : State) : (evaluateWindow s).events = s.events := by simp [evaluateWindow]
@[simp] theorem evaluateWindow_result (s : State) : (evaluateWindow s).result = s.result := by simp [evaluateWindow]
@[simp] theorem evaluateWindow_nanDraws (s : State) : (evaluateWindow s).nanDraws = s.nanDraws := by simp [evaluateWindow]
@[simp] theorem updateWindow_cfg (braw : Bool) (s : State) : (updateWindow braw s).cfg = s.cfg := by unfold updateWindow; dsimp only; split <;> simp
@[simp] theorem updateWindow_act (braw : Bool) (s : State) : (updateWindow braw s).act = s.act := by unfold updateWindow; dsimp only; split <;> simp
@[simp] theorem updateWindow_run (braw : Bool) (s : State) : (updateWindow braw s).run = s.run := by unfold updateWindow; dsimp only; split <;> simp
@[simp] theorem updateWindow_cfgErr (braw : Bool) (s : State) : (updateWindow braw s).cfgErr = s.cfgErr := by unfold updateWindow; dsimp only; split <;> simp
@[simp] theorem updateWindow_cfgCode (braw : Bool) (s : State) : (updateWindow braw s).cfgCode = s.cfgCode := by unfold updateWindow; dsimp only; split <;> simp
@[simp] theorem updateWindow_nfIn (braw : Bool) (s : State) : (updateWindow braw s).nfIn = s.nfIn := by unfold updateWindow; dsimp only; split <;> simp
@[simp] theorem updateWindow_nfMf (braw : Bool) (s : State) : (updateWindow braw s).nfMf = s.nfMf := by unfold updateWindow; dsimp only; split <;> simp
@[simp] theorem updateWindow_nfErr (braw : Bool) (s : State) : (updateWindow braw s).nfErr = s.nfErr := by unfold updateWindow; dsimp only; split <;> simp
@[simp] theorem updateWindow_badCmd (braw : Bool) (s : State) : (updateWindow braw s).badCmd = s.badCmd := by unfold updateWindow; dsimp only; split <;> simp
@[simp] theorem updateWindow_badAccess (braw : Bool) (s : State) : (updateWindow braw s).badAccess = s.badAccess := by unfold updateWindow; dsimp only; split <;> simp
@[simp] theorem updateWindow_xl (braw : Bool) (s : State) : (updateWindow braw s).xl = s.xl := by unfold updateWindow; dsimp only; split <;> simp
@[simp] theorem updateWindow_dl (braw : Bool) (s : State) : (updateWindow braw s).dl = s.dl := by unfold updateWindow; dsimp only; split <;> simp
@[simp] theorem updateWindow_theta (braw : Bool) (s : State) : (updateWindow braw s).theta = s.theta := by unfold updateWindow; dsimp only; split <;> simp
@[simp] theorem updateWindow_nu (braw : Bool) (s : State) : (updateWindow braw s).nu = s.nu := by unfold updateWindow; dsimp only; split <;> simp
@[simp] theorem updateWindow_tacc (braw : Bool) (s : State) : (updateWindow braw s).tacc = s.tacc := by unfold updateWindow; dsimp only; split <;> simp
@[simp] theorem updateWindow_tau (braw : Bool) (s : State) : (updateWindow braw s).tau = s.tau := by unfold updateWindow; dsimp only; split <;> simp
@[simp] theorem updateWindow_mufrac (braw : Bool) (s : State) : (updateWindow braw s).mufrac = s.mufrac := by unfold updateWindow; dsimp only; split <;> simp
@[simp] theorem updateWindow_pkCount (braw : Bool) (s : State) : (updateWindow braw s).pkCount = s.pkCount := by unfold updateWindow; dsimp only; split <;> simp
@[simp] theorem updateWindow_pkBuf (braw : Bool) (s : State) : (updateWindow braw s).pkBuf = s.pkBuf := by unfold updateWindow; dsimp only; split <;> simp
@[simp] theorem updateWindow_inbox (braw : Bool) (s : State) : (updateWindow braw s).inbox = s.inbox := by unfold updateWindow; dsimp only; split <;> simp
@[simp] theorem updateWindow_events (braw : Bool) (s : State) : (updateWindow braw s).events = s.events := by unfold updateWindow; dsimp only; split <;> simp
@[simp] theorem updateWindow_result (braw : Bool) (s : State) : (updateWindow braw s).result = s.result := by unfold updateWindow; dsimp only; split <;> simp
@[simp] theorem updateWindow_nanDraws (braw : Bool) (s : State) : (updateWindow braw s).nanDraws = s.nanDraws := by unfold updateWindow; dsimp only; split <;> simp
@[simp] theorem extract_cfg (neg : Bool) (s : State) : (extract neg s).cfg = s.cfg := by simp [extract]
@[simp] theorem extract_act (neg : Bool) (s : State) : (extract neg s).act = s.act := by simp [extract]
@[simp] theorem extract_run (neg : Bool) (s : State) : (extract neg s).run = s.run := by simp [extract]
@[simp] theorem extract_cfgErr (neg : Bool) (s : State) : (extract neg s).cfgErr = s.cfgErr := by simp [extract]
@[simp] theorem extract_cfgCode (neg : Bool) (s : State) : (extract neg s).cfgCode = s.cfgCode := by simp [extract]
@[simp] theorem extract_nfIn (neg : Bool) (s : State) : (extract neg s).nfIn = s.nfIn := by simp [extract]
@[simp] theorem extract_nfMf (neg : Bool) (s : State) : (extract neg s).nfMf = s.nfMf := by simp [extract]
@[simp] theorem extract_nfErr (neg : Bool) (s : State) : (extract neg s).nfErr = s.nfErr := by simp [extract]
@[simp] theorem extract_badCmd (neg : Bool) (s : State) : (extract neg s).badCmd = s.badCmd := by simp [extract]
@[simp] theorem extract_badAccess (neg : Bool) (s : State) : (extract neg s).badAccess = s.badAccess := by simp [extract]
@[simp] theorem extract_xl (neg : Bool) (s : State) : (extract neg s).xl = s.xl := by simp [extract]
@[simp] theorem extract_dl (neg : Bool) (s : State) : (extract neg s).dl = s.dl := by simp [extract]
@[simp] theorem extract_theta (neg : Bool) (s : State) : (extract neg s).theta = s.theta := by simp [extract]
@[simp] theorem extract_nu (neg : Bool) (s : State) : (extract neg s).nu = s.nu := by simp [extract]
@[simp] theorem extract_tacc (neg : Bool) (s : State) : (extract neg s).tacc = s.tacc := by simp [extract]
@[simp] theorem extract_tau (neg : Bool) (s : State) : (extract neg s).tau = s.tau := by simp [extract]
@[simp] theorem extract_mufrac (neg : Bool) (s : State) : (extract neg s).mufrac = s.mufrac := by simp [extract]
@[simp] theorem extract_inbox (neg : Bool) (s : State) : (extract neg s).inbox = s.inbox := by simp [extract]
@[simp] theorem extract_result (neg : Bool) (s : State) : (extract neg s).result = s.result := by simp [extract]
@[simp] theorem extract_nanDraws (neg : Bool) (s : State) : (extract neg s).nanDraws = s.nanDraws := by simp [extract]

/-! ### Demodulator (41_demodulator.md R160) -/

@[simp] theorem takeSample_cfg (x : Cplx) (s : State) : (takeSample x s).cfg = s.cfg := by simp [takeSample]
@[simp] theorem takeSample_act (x : Cplx) (s : State) : (takeSample x s).act = s.act := by simp [takeSample]
@[simp] theorem takeSample_run (x : Cplx) (s : State) : (takeSample x s).run = s.run := by simp [takeSample]
@[simp] theorem takeSample_cfgErr (x : Cplx) (s : State) : (takeSample x s).cfgErr = s.cfgErr := by simp [takeSample]
@[simp] theorem takeSample_cfgCode (x : Cplx) (s : State) : (takeSample x s).cfgCode = s.cfgCode := by simp [takeSample]
@[simp] theorem takeSample_nfMf (x : Cplx) (s : State) : (takeSample x s).nfMf = s.nfMf := by simp [takeSample, raiseIf]; split <;> rfl
@[simp] theorem takeSample_nfErr (x : Cplx) (s : State) : (takeSample x s).nfErr = s.nfErr := by simp [takeSample, raiseIf]; split <;> rfl
@[simp] theorem takeSample_badCmd (x : Cplx) (s : State) : (takeSample x s).badCmd = s.badCmd := by simp [takeSample, raiseIf]; split <;> rfl
@[simp] theorem takeSample_badAccess (x : Cplx) (s : State) : (takeSample x s).badAccess = s.badAccess := by simp [takeSample, raiseIf]; split <;> rfl
@[simp] theorem takeSample_dl (x : Cplx) (s : State) : (takeSample x s).dl = s.dl := by simp [takeSample]
@[simp] theorem takeSample_theta (x : Cplx) (s : State) : (takeSample x s).theta = s.theta := by simp [takeSample]
@[simp] theorem takeSample_nu (x : Cplx) (s : State) : (takeSample x s).nu = s.nu := by simp [takeSample]
@[simp] theorem takeSample_tacc (x : Cplx) (s : State) : (takeSample x s).tacc = s.tacc := by simp [takeSample]
@[simp] theorem takeSample_tau (x : Cplx) (s : State) : (takeSample x s).tau = s.tau := by simp [takeSample]
@[simp] theorem takeSample_mufrac (x : Cplx) (s : State) : (takeSample x s).mufrac = s.mufrac := by simp [takeSample]
@[simp] theorem takeSample_wreg (x : Cplx) (s : State) : (takeSample x s).wreg = s.wreg := by simp [takeSample]
@[simp] theorem takeSample_fill (x : Cplx) (s : State) : (takeSample x s).fill = s.fill := by simp [takeSample]
@[simp] theorem takeSample_miss (x : Cplx) (s : State) : (takeSample x s).miss = s.miss := by simp [takeSample]
@[simp] theorem takeSample_sync (x : Cplx) (s : State) : (takeSample x s).sync = s.sync := by simp [takeSample]
@[simp] theorem takeSample_pol (x : Cplx) (s : State) : (takeSample x s).pol = s.pol := by simp [takeSample]
@[simp] theorem takeSample_stderr (x : Cplx) (s : State) : (takeSample x s).stderr = s.stderr := by simp [takeSample]
@[simp] theorem takeSample_pkCount (x : Cplx) (s : State) : (takeSample x s).pkCount = s.pkCount := by simp [takeSample]
@[simp] theorem takeSample_pkBuf (x : Cplx) (s : State) : (takeSample x s).pkBuf = s.pkBuf := by simp [takeSample]
@[simp] theorem takeSample_inbox (x : Cplx) (s : State) : (takeSample x s).inbox = s.inbox := by simp [takeSample]
@[simp] theorem takeSample_events (x : Cplx) (s : State) : (takeSample x s).events = s.events := by simp [takeSample]
@[simp] theorem takeSample_result (x : Cplx) (s : State) : (takeSample x s).result = s.result := by simp [takeSample]
@[simp] theorem takeSample_nanDraws (x : Cplx) (s : State) : (takeSample x s).nanDraws = s.nanDraws := by simp [takeSample]
@[simp] theorem filterSample_cfg (s : State) : (filterSample s).cfg = s.cfg := by simp [filterSample]
@[simp] theorem filterSample_act (s : State) : (filterSample s).act = s.act := by simp [filterSample]
@[simp] theorem filterSample_run (s : State) : (filterSample s).run = s.run := by simp [filterSample]
@[simp] theorem filterSample_cfgErr (s : State) : (filterSample s).cfgErr = s.cfgErr := by simp [filterSample]
@[simp] theorem filterSample_cfgCode (s : State) : (filterSample s).cfgCode = s.cfgCode := by simp [filterSample]
@[simp] theorem filterSample_nfIn (s : State) : (filterSample s).nfIn = s.nfIn := by simp [filterSample, raiseIf]; split <;> rfl
@[simp] theorem filterSample_nfErr (s : State) : (filterSample s).nfErr = s.nfErr := by simp [filterSample, raiseIf]; split <;> rfl
@[simp] theorem filterSample_badCmd (s : State) : (filterSample s).badCmd = s.badCmd := by simp [filterSample, raiseIf]; split <;> rfl
@[simp] theorem filterSample_badAccess (s : State) : (filterSample s).badAccess = s.badAccess := by simp [filterSample, raiseIf]; split <;> rfl
@[simp] theorem filterSample_xl (s : State) : (filterSample s).xl = s.xl := by simp [filterSample]
@[simp] theorem filterSample_theta (s : State) : (filterSample s).theta = s.theta := by simp [filterSample]
@[simp] theorem filterSample_nu (s : State) : (filterSample s).nu = s.nu := by simp [filterSample]
@[simp] theorem filterSample_tacc (s : State) : (filterSample s).tacc = s.tacc := by simp [filterSample]
@[simp] theorem filterSample_tau (s : State) : (filterSample s).tau = s.tau := by simp [filterSample]
@[simp] theorem filterSample_mufrac (s : State) : (filterSample s).mufrac = s.mufrac := by simp [filterSample]
@[simp] theorem filterSample_wreg (s : State) : (filterSample s).wreg = s.wreg := by simp [filterSample]
@[simp] theorem filterSample_fill (s : State) : (filterSample s).fill = s.fill := by simp [filterSample]
@[simp] theorem filterSample_miss (s : State) : (filterSample s).miss = s.miss := by simp [filterSample]
@[simp] theorem filterSample_sync (s : State) : (filterSample s).sync = s.sync := by simp [filterSample]
@[simp] theorem filterSample_pol (s : State) : (filterSample s).pol = s.pol := by simp [filterSample]
@[simp] theorem filterSample_stderr (s : State) : (filterSample s).stderr = s.stderr := by simp [filterSample]
@[simp] theorem filterSample_pkCount (s : State) : (filterSample s).pkCount = s.pkCount := by simp [filterSample]
@[simp] theorem filterSample_pkBuf (s : State) : (filterSample s).pkBuf = s.pkBuf := by simp [filterSample]
@[simp] theorem filterSample_inbox (s : State) : (filterSample s).inbox = s.inbox := by simp [filterSample]
@[simp] theorem filterSample_events (s : State) : (filterSample s).events = s.events := by simp [filterSample]
@[simp] theorem filterSample_result (s : State) : (filterSample s).result = s.result := by simp [filterSample]
@[simp] theorem filterSample_nanDraws (s : State) : (filterSample s).nanDraws = s.nanDraws := by simp [filterSample]
@[simp] theorem countDown_cfg (s : State) : (countDown s).cfg = s.cfg := rfl
@[simp] theorem countDown_act (s : State) : (countDown s).act = s.act := rfl
@[simp] theorem countDown_run (s : State) : (countDown s).run = s.run := rfl
@[simp] theorem countDown_cfgErr (s : State) : (countDown s).cfgErr = s.cfgErr := rfl
@[simp] theorem countDown_cfgCode (s : State) : (countDown s).cfgCode = s.cfgCode := rfl
@[simp] theorem countDown_nfIn (s : State) : (countDown s).nfIn = s.nfIn := rfl
@[simp] theorem countDown_nfMf (s : State) : (countDown s).nfMf = s.nfMf := rfl
@[simp] theorem countDown_nfErr (s : State) : (countDown s).nfErr = s.nfErr := rfl
@[simp] theorem countDown_badCmd (s : State) : (countDown s).badCmd = s.badCmd := rfl
@[simp] theorem countDown_badAccess (s : State) : (countDown s).badAccess = s.badAccess := rfl
@[simp] theorem countDown_xl (s : State) : (countDown s).xl = s.xl := rfl
@[simp] theorem countDown_dl (s : State) : (countDown s).dl = s.dl := rfl
@[simp] theorem countDown_theta (s : State) : (countDown s).theta = s.theta := rfl
@[simp] theorem countDown_nu (s : State) : (countDown s).nu = s.nu := rfl
@[simp] theorem countDown_tacc (s : State) : (countDown s).tacc = s.tacc := rfl
@[simp] theorem countDown_mufrac (s : State) : (countDown s).mufrac = s.mufrac := rfl
@[simp] theorem countDown_wreg (s : State) : (countDown s).wreg = s.wreg := rfl
@[simp] theorem countDown_fill (s : State) : (countDown s).fill = s.fill := rfl
@[simp] theorem countDown_miss (s : State) : (countDown s).miss = s.miss := rfl
@[simp] theorem countDown_sync (s : State) : (countDown s).sync = s.sync := rfl
@[simp] theorem countDown_pol (s : State) : (countDown s).pol = s.pol := rfl
@[simp] theorem countDown_stderr (s : State) : (countDown s).stderr = s.stderr := rfl
@[simp] theorem countDown_pkCount (s : State) : (countDown s).pkCount = s.pkCount := rfl
@[simp] theorem countDown_pkBuf (s : State) : (countDown s).pkBuf = s.pkBuf := rfl
@[simp] theorem countDown_inbox (s : State) : (countDown s).inbox = s.inbox := rfl
@[simp] theorem countDown_events (s : State) : (countDown s).events = s.events := rfl
@[simp] theorem countDown_result (s : State) : (countDown s).result = s.result := rfl
@[simp] theorem countDown_nanDraws (s : State) : (countDown s).nanDraws = s.nanDraws := rfl
@[simp] theorem sampleFront_cfg (x : Cplx) (s : State) : (sampleFront x s).cfg = s.cfg := by simp [sampleFront]
@[simp] theorem sampleFront_act (x : Cplx) (s : State) : (sampleFront x s).act = s.act := by simp [sampleFront]
@[simp] theorem sampleFront_run (x : Cplx) (s : State) : (sampleFront x s).run = s.run := by simp [sampleFront]
@[simp] theorem sampleFront_cfgErr (x : Cplx) (s : State) : (sampleFront x s).cfgErr = s.cfgErr := by simp [sampleFront]
@[simp] theorem sampleFront_cfgCode (x : Cplx) (s : State) : (sampleFront x s).cfgCode = s.cfgCode := by simp [sampleFront]
@[simp] theorem sampleFront_nfErr (x : Cplx) (s : State) : (sampleFront x s).nfErr = s.nfErr := by simp [sampleFront]
@[simp] theorem sampleFront_badCmd (x : Cplx) (s : State) : (sampleFront x s).badCmd = s.badCmd := by simp [sampleFront]
@[simp] theorem sampleFront_badAccess (x : Cplx) (s : State) : (sampleFront x s).badAccess = s.badAccess := by simp [sampleFront]
@[simp] theorem sampleFront_theta (x : Cplx) (s : State) : (sampleFront x s).theta = s.theta := by simp [sampleFront]
@[simp] theorem sampleFront_nu (x : Cplx) (s : State) : (sampleFront x s).nu = s.nu := by simp [sampleFront]
@[simp] theorem sampleFront_tacc (x : Cplx) (s : State) : (sampleFront x s).tacc = s.tacc := by simp [sampleFront]
@[simp] theorem sampleFront_mufrac (x : Cplx) (s : State) : (sampleFront x s).mufrac = s.mufrac := by simp [sampleFront]
@[simp] theorem sampleFront_wreg (x : Cplx) (s : State) : (sampleFront x s).wreg = s.wreg := by simp [sampleFront]
@[simp] theorem sampleFront_fill (x : Cplx) (s : State) : (sampleFront x s).fill = s.fill := by simp [sampleFront]
@[simp] theorem sampleFront_miss (x : Cplx) (s : State) : (sampleFront x s).miss = s.miss := by simp [sampleFront]
@[simp] theorem sampleFront_sync (x : Cplx) (s : State) : (sampleFront x s).sync = s.sync := by simp [sampleFront]
@[simp] theorem sampleFront_pol (x : Cplx) (s : State) : (sampleFront x s).pol = s.pol := by simp [sampleFront]
@[simp] theorem sampleFront_stderr (x : Cplx) (s : State) : (sampleFront x s).stderr = s.stderr := by simp [sampleFront]
@[simp] theorem sampleFront_pkCount (x : Cplx) (s : State) : (sampleFront x s).pkCount = s.pkCount := by simp [sampleFront]
@[simp] theorem sampleFront_pkBuf (x : Cplx) (s : State) : (sampleFront x s).pkBuf = s.pkBuf := by simp [sampleFront]
@[simp] theorem sampleFront_inbox (x : Cplx) (s : State) : (sampleFront x s).inbox = s.inbox := by simp [sampleFront]
@[simp] theorem sampleFront_events (x : Cplx) (s : State) : (sampleFront x s).events = s.events := by simp [sampleFront]
@[simp] theorem sampleFront_result (x : Cplx) (s : State) : (sampleFront x s).result = s.result := by simp [sampleFront]
@[simp] theorem sampleFront_nanDraws (x : Cplx) (s : State) : (sampleFront x s).nanDraws = s.nanDraws := by simp [sampleFront]
@[simp] theorem carrierUpdate_cfg (ep : F32) (s : State) : (carrierUpdate ep s).cfg = s.cfg := rfl
@[simp] theorem carrierUpdate_act (ep : F32) (s : State) : (carrierUpdate ep s).act = s.act := rfl
@[simp] theorem carrierUpdate_run (ep : F32) (s : State) : (carrierUpdate ep s).run = s.run := rfl
@[simp] theorem carrierUpdate_cfgErr (ep : F32) (s : State) : (carrierUpdate ep s).cfgErr = s.cfgErr := rfl
@[simp] theorem carrierUpdate_cfgCode (ep : F32) (s : State) : (carrierUpdate ep s).cfgCode = s.cfgCode := rfl
@[simp] theorem carrierUpdate_nfIn (ep : F32) (s : State) : (carrierUpdate ep s).nfIn = s.nfIn := rfl
@[simp] theorem carrierUpdate_nfMf (ep : F32) (s : State) : (carrierUpdate ep s).nfMf = s.nfMf := rfl
@[simp] theorem carrierUpdate_nfErr (ep : F32) (s : State) : (carrierUpdate ep s).nfErr = s.nfErr := rfl
@[simp] theorem carrierUpdate_badCmd (ep : F32) (s : State) : (carrierUpdate ep s).badCmd = s.badCmd := rfl
@[simp] theorem carrierUpdate_badAccess (ep : F32) (s : State) : (carrierUpdate ep s).badAccess = s.badAccess := rfl
@[simp] theorem carrierUpdate_xl (ep : F32) (s : State) : (carrierUpdate ep s).xl = s.xl := rfl
@[simp] theorem carrierUpdate_dl (ep : F32) (s : State) : (carrierUpdate ep s).dl = s.dl := rfl
@[simp] theorem carrierUpdate_tacc (ep : F32) (s : State) : (carrierUpdate ep s).tacc = s.tacc := rfl
@[simp] theorem carrierUpdate_tau (ep : F32) (s : State) : (carrierUpdate ep s).tau = s.tau := rfl
@[simp] theorem carrierUpdate_mufrac (ep : F32) (s : State) : (carrierUpdate ep s).mufrac = s.mufrac := rfl
@[simp] theorem carrierUpdate_wreg (ep : F32) (s : State) : (carrierUpdate ep s).wreg = s.wreg := rfl
@[simp] theorem carrierUpdate_fill (ep : F32) (s : State) : (carrierUpdate ep s).fill = s.fill := rfl
@[simp] theorem carrierUpdate_miss (ep : F32) (s : State) : (carrierUpdate ep s).miss = s.miss := rfl
@[simp] theorem carrierUpdate_sync (ep : F32) (s : State) : (carrierUpdate ep s).sync = s.sync := rfl
@[simp] theorem carrierUpdate_pol (ep : F32) (s : State) : (carrierUpdate ep s).pol = s.pol := rfl
@[simp] theorem carrierUpdate_stderr (ep : F32) (s : State) : (carrierUpdate ep s).stderr = s.stderr := rfl
@[simp] theorem carrierUpdate_pkCount (ep : F32) (s : State) : (carrierUpdate ep s).pkCount = s.pkCount := rfl
@[simp] theorem carrierUpdate_pkBuf (ep : F32) (s : State) : (carrierUpdate ep s).pkBuf = s.pkBuf := rfl
@[simp] theorem carrierUpdate_inbox (ep : F32) (s : State) : (carrierUpdate ep s).inbox = s.inbox := rfl
@[simp] theorem carrierUpdate_events (ep : F32) (s : State) : (carrierUpdate ep s).events = s.events := rfl
@[simp] theorem carrierUpdate_result (ep : F32) (s : State) : (carrierUpdate ep s).result = s.result := rfl
@[simp] theorem carrierUpdate_nanDraws (ep : F32) (s : State) : (carrierUpdate ep s).nanDraws = s.nanDraws := rfl
@[simp] theorem timingUpdate_cfg (et : F32) (s : State) : (timingUpdate et s).cfg = s.cfg := rfl
@[simp] theorem timingUpdate_act (et : F32) (s : State) : (timingUpdate et s).act = s.act := rfl
@[simp] theorem timingUpdate_run (et : F32) (s : State) : (timingUpdate et s).run = s.run := rfl
@[simp] theorem timingUpdate_cfgErr (et : F32) (s : State) : (timingUpdate et s).cfgErr = s.cfgErr := rfl
@[simp] theorem timingUpdate_cfgCode (et : F32) (s : State) : (timingUpdate et s).cfgCode = s.cfgCode := rfl
@[simp] theorem timingUpdate_nfIn (et : F32) (s : State) : (timingUpdate et s).nfIn = s.nfIn := rfl
@[simp] theorem timingUpdate_nfMf (et : F32) (s : State) : (timingUpdate et s).nfMf = s.nfMf := rfl
@[simp] theorem timingUpdate_nfErr (et : F32) (s : State) : (timingUpdate et s).nfErr = s.nfErr := rfl
@[simp] theorem timingUpdate_badCmd (et : F32) (s : State) : (timingUpdate et s).badCmd = s.badCmd := rfl
@[simp] theorem timingUpdate_badAccess (et : F32) (s : State) : (timingUpdate et s).badAccess = s.badAccess := rfl
@[simp] theorem timingUpdate_xl (et : F32) (s : State) : (timingUpdate et s).xl = s.xl := rfl
@[simp] theorem timingUpdate_dl (et : F32) (s : State) : (timingUpdate et s).dl = s.dl := rfl
@[simp] theorem timingUpdate_theta (et : F32) (s : State) : (timingUpdate et s).theta = s.theta := rfl
@[simp] theorem timingUpdate_nu (et : F32) (s : State) : (timingUpdate et s).nu = s.nu := rfl
@[simp] theorem timingUpdate_mufrac (et : F32) (s : State) : (timingUpdate et s).mufrac = s.mufrac := rfl
@[simp] theorem timingUpdate_wreg (et : F32) (s : State) : (timingUpdate et s).wreg = s.wreg := rfl
@[simp] theorem timingUpdate_fill (et : F32) (s : State) : (timingUpdate et s).fill = s.fill := rfl
@[simp] theorem timingUpdate_miss (et : F32) (s : State) : (timingUpdate et s).miss = s.miss := rfl
@[simp] theorem timingUpdate_sync (et : F32) (s : State) : (timingUpdate et s).sync = s.sync := rfl
@[simp] theorem timingUpdate_pol (et : F32) (s : State) : (timingUpdate et s).pol = s.pol := rfl
@[simp] theorem timingUpdate_stderr (et : F32) (s : State) : (timingUpdate et s).stderr = s.stderr := rfl
@[simp] theorem timingUpdate_pkCount (et : F32) (s : State) : (timingUpdate et s).pkCount = s.pkCount := rfl
@[simp] theorem timingUpdate_pkBuf (et : F32) (s : State) : (timingUpdate et s).pkBuf = s.pkBuf := rfl
@[simp] theorem timingUpdate_inbox (et : F32) (s : State) : (timingUpdate et s).inbox = s.inbox := rfl
@[simp] theorem timingUpdate_events (et : F32) (s : State) : (timingUpdate et s).events = s.events := rfl
@[simp] theorem timingUpdate_result (et : F32) (s : State) : (timingUpdate et s).result = s.result := rfl
@[simp] theorem timingUpdate_nanDraws (et : F32) (s : State) : (timingUpdate et s).nanDraws = s.nanDraws := rfl
@[simp] theorem strobe_cfg (s : State) : (strobe s).cfg = s.cfg := by simp [strobe]
@[simp] theorem strobe_act (s : State) : (strobe s).act = s.act := by simp [strobe]
@[simp] theorem strobe_run (s : State) : (strobe s).run = s.run := by simp [strobe]
@[simp] theorem strobe_cfgErr (s : State) : (strobe s).cfgErr = s.cfgErr := by simp [strobe]
@[simp] theorem strobe_cfgCode (s : State) : (strobe s).cfgCode = s.cfgCode := by simp [strobe]
@[simp] theorem strobe_nfIn (s : State) : (strobe s).nfIn = s.nfIn := by simp [strobe, raiseIf]; split <;> rfl
@[simp] theorem strobe_nfMf (s : State) : (strobe s).nfMf = s.nfMf := by simp [strobe, raiseIf]; split <;> rfl
@[simp] theorem strobe_badCmd (s : State) : (strobe s).badCmd = s.badCmd := by simp [strobe, raiseIf]; split <;> rfl
@[simp] theorem strobe_badAccess (s : State) : (strobe s).badAccess = s.badAccess := by simp [strobe, raiseIf]; split <;> rfl
@[simp] theorem strobe_xl (s : State) : (strobe s).xl = s.xl := by simp [strobe]
@[simp] theorem strobe_dl (s : State) : (strobe s).dl = s.dl := by simp [strobe]
@[simp] theorem strobe_inbox (s : State) : (strobe s).inbox = s.inbox := by simp [strobe]
@[simp] theorem strobe_result (s : State) : (strobe s).result = s.result := by simp [strobe]
@[simp] theorem advanceNco_cfg (s : State) : (advanceNco s).cfg = s.cfg := rfl
@[simp] theorem advanceNco_act (s : State) : (advanceNco s).act = s.act := rfl
@[simp] theorem advanceNco_run (s : State) : (advanceNco s).run = s.run := rfl
@[simp] theorem advanceNco_cfgErr (s : State) : (advanceNco s).cfgErr = s.cfgErr := rfl
@[simp] theorem advanceNco_cfgCode (s : State) : (advanceNco s).cfgCode = s.cfgCode := rfl
@[simp] theorem advanceNco_nfIn (s : State) : (advanceNco s).nfIn = s.nfIn := rfl
@[simp] theorem advanceNco_nfMf (s : State) : (advanceNco s).nfMf = s.nfMf := rfl
@[simp] theorem advanceNco_nfErr (s : State) : (advanceNco s).nfErr = s.nfErr := rfl
@[simp] theorem advanceNco_badCmd (s : State) : (advanceNco s).badCmd = s.badCmd := rfl
@[simp] theorem advanceNco_badAccess (s : State) : (advanceNco s).badAccess = s.badAccess := rfl
@[simp] theorem advanceNco_xl (s : State) : (advanceNco s).xl = s.xl := rfl
@[simp] theorem advanceNco_dl (s : State) : (advanceNco s).dl = s.dl := rfl
@[simp] theorem advanceNco_nu (s : State) : (advanceNco s).nu = s.nu := rfl
@[simp] theorem advanceNco_tacc (s : State) : (advanceNco s).tacc = s.tacc := rfl
@[simp] theorem advanceNco_tau (s : State) : (advanceNco s).tau = s.tau := rfl
@[simp] theorem advanceNco_mufrac (s : State) : (advanceNco s).mufrac = s.mufrac := rfl
@[simp] theorem advanceNco_wreg (s : State) : (advanceNco s).wreg = s.wreg := rfl
@[simp] theorem advanceNco_fill (s : State) : (advanceNco s).fill = s.fill := rfl
@[simp] theorem advanceNco_miss (s : State) : (advanceNco s).miss = s.miss := rfl
@[simp] theorem advanceNco_sync (s : State) : (advanceNco s).sync = s.sync := rfl
@[simp] theorem advanceNco_pol (s : State) : (advanceNco s).pol = s.pol := rfl
@[simp] theorem advanceNco_stderr (s : State) : (advanceNco s).stderr = s.stderr := rfl
@[simp] theorem advanceNco_pkCount (s : State) : (advanceNco s).pkCount = s.pkCount := rfl
@[simp] theorem advanceNco_pkBuf (s : State) : (advanceNco s).pkBuf = s.pkBuf := rfl
@[simp] theorem advanceNco_inbox (s : State) : (advanceNco s).inbox = s.inbox := rfl
@[simp] theorem advanceNco_events (s : State) : (advanceNco s).events = s.events := rfl
@[simp] theorem advanceNco_result (s : State) : (advanceNco s).result = s.result := rfl
@[simp] theorem advanceNco_nanDraws (s : State) : (advanceNco s).nanDraws = s.nanDraws := rfl

end Sys2Proof.Machine
end

