-- ==== Sys2Proof/Laws/Start.lean ====
section
/-! SUPPORT. The checks of START one by one, on exact values (40_control.md R127), and what they bound. -/

namespace Sys2Proof.Machine

open Sys2Proof.F32 Sys2Proof.Safety

/-! ### Comparisons on exact values -/

theorem inClosed_iff {x lo hi : F32} (hl : isNaN lo = false) (hh : isNaN hi = false) :
    inClosed x lo hi = true ↔ FiniteAnd x fun u => units lo ≤ u ∧ u ≤ units hi := by
  unfold inClosed within FiniteAnd
  rw [Bool.and_eq_true, Bool.and_eq_true]
  refine and_congr_right fun h => ?_
  rw [le_iff hl (isNaN_of_isFinite h), le_iff (isNaN_of_isFinite h) hh]

theorem inLeftOpen_iff {x hi : F32} (hh : isNaN hi = false) :
    inLeftOpen x hi = true ↔ FiniteAnd x fun u => 0 < u ∧ u ≤ units hi := by
  unfold inLeftOpen FiniteAnd
  rw [Bool.and_eq_true, Bool.and_eq_true, and_assoc]
  refine and_congr_right fun h => ?_
  rw [lt_iff (by decide) (isNaN_of_isFinite h), le_iff (isNaN_of_isFinite h) hh, show units F32.zero = 0 by decide]

theorem finitePositive_iff {x : F32} :
    (isFinite x && F32.lt F32.zero x) = true ↔ FiniteAnd x fun u => 0 < u := by
  unfold FiniteAnd
  rw [Bool.and_eq_true]
  refine and_congr_right fun h => ?_
  rw [lt_iff (by decide) (isNaN_of_isFinite h), show units F32.zero = 0 by decide]

/-! ### The checks -/

@[simp] theorem startChecks_length (c : CfgRegs) : (startChecks c).length = 14 := rfl

/-- The entry at place `i` carries code `i + 1`. -/
theorem startChecks_code (c : CfgRegs) (i : Nat) (h : i < (startChecks c).length) :
    (startChecks c)[i].1 = BitVec.ofNat 4 (i + 1) := by
  rw [startChecks_length] at h
  interval_cases i <;> rfl

theorem all_taps_finite_iff (c : CfgRegs) :
    (c.h.toList.take c.filterSpan.toNat).all isFinite = true ↔
      ∀ k (h : k < Config.mfMax), k < c.filterSpan.toNat → isFinite c.h[k] = true := by
  rw [List.all_eq_true]
  constructor
  · intro h k hk hs
    apply h
    rw [List.mem_take_iff_getElem]
    exact ⟨k, by simpa using ⟨hs, hk⟩, by simp⟩
  · intro h x hx
    rw [List.mem_take_iff_getElem] at hx
    obtain ⟨k, hk, rfl⟩ := hx
    have hk' : k < c.filterSpan.toNat ∧ k < Config.mfMax := by simpa using hk
    simpa using h k hk'.2 hk'.1

/-- The entry at place `i` passes exactly when check `i + 1` of R127 holds. -/
theorem startChecks_pass (c : CfgRegs) (i : Nat) (h : i < (startChecks c).length) :
    (startChecks c)[i].2 = true ↔ StartCheck c (i + 1) := by
  rw [startChecks_length] at h
  have u2 : units two = 2 * 2 ^ 149 := by decide
  have u4 : units four = 4 * 2 ^ 149 := by decide
  have u1 : units one = 2 ^ 149 := by decide
  have u0 : units F32.zero = 0 := by decide
  have nan0 : isNaN F32.zero = false := by decide
  have nan2 : isNaN two = false := by decide
  have nan4 : isNaN four = false := by decide
  interval_cases i
  · exact finitePositive_iff
  · exact finitePositive_iff
  · exact (inClosed_iff nan2 (by decide)).trans (by
      rw [u2, show units Config.spsMax = 65536 * 2 ^ 149 by decide]; rfl)
  · exact (Bool.and_eq_true _ _).to_iff.trans (by simp [StartCheck])
  · exact (Bool.and_eq_true _ _).to_iff.trans (and_congr
      ((inClosed_iff nan0 nan2).trans (by rw [u0, u2]))
      ((inClosed_iff nan0 nan4).trans (by rw [u0, u4])))
  · exact (Bool.and_eq_true _ _).to_iff.trans (by
      rw [inLeftOpen_iff (by decide)]
      refine and_congr_right fun hf => ?_
      rw [inClosed_iff (by simpa using isNaN_of_isFinite hf.1) (isNaN_of_isFinite hf.1), units_neg])
  · exact (Bool.and_eq_true _ _).to_iff.trans (by
      rw [Bool.and_eq_true, and_assoc]
      refine and_congr ((inClosed_iff nan0 nan2).trans (by rw [u0, u2])) (and_congr
        ((inClosed_iff nan0 nan4).trans (by rw [u0, u4])) ((inClosed_iff nan0 (by decide)).trans ?_))
      rw [u0, show units half = 2 ^ 148 by decide]
      unfold FiniteAnd
      refine and_congr_right fun _ => and_congr_right fun _ => ?_
      omega)
  · exact (Bool.and_eq_true _ _).to_iff.trans (by simp [StartCheck])
  · exact (inLeftOpen_iff (by decide)).trans (by
      rw [show units Config.eclampMax = 1000000 * 2 ^ 149 by decide]; rfl)
  · exact (Bool.and_eq_true _ _).to_iff.trans (by simp [StartCheck, and_assoc])
  · exact decide_eq_true_iff
  · exact (inLeftOpen_iff (by decide)).trans (by rw [u1]; rfl)
  · exact (Bool.and_eq_true _ _).to_iff.trans (by simp [StartCheck])
  · exact all_taps_finite_iff c

/-- A valid configuration passes every check. -/
theorem startCheck_of_valid {c : CfgRegs} (h : validate c = 0#4) (k : Nat) (h1 : 1 ≤ k) (h14 : k ≤ 14) :
    StartCheck c k := by
  obtain ⟨i, rfl⟩ : ∃ i, k = i + 1 := ⟨k - 1, by omega⟩
  have hi : i < (startChecks c).length := by rw [startChecks_length]; omega
  rw [← startChecks_pass c i hi]
  unfold validate at h
  split at h
  · next check hf =>
    obtain ⟨-, j, hj, rfl, -⟩ := List.find?_eq_some_iff_getElem.1 hf
    rw [startChecks_code] at h
    rw [startChecks_length] at hj
    interval_cases j <;> simp at h
  · next hf =>
    have := List.find?_eq_none.1 hf _ (List.getElem_mem hi)
    simpa using this

theorem validate_ne_reserved (c : CfgRegs) : validate c ≠ 15#4 := by
  unfold validate
  split
  · next check hf =>
    obtain ⟨-, j, hj, rfl, -⟩ := List.find?_eq_some_iff_getElem.1 hf
    rw [startChecks_code]
    rw [startChecks_length] at hj
    interval_cases j <;> decide
  · decide

end Sys2Proof.Machine
end

