-- ==== Sys2Proof/Laws/Step.lean ====
section
/-! SUPPORT. What a step and each transaction can answer, said once; later proofs cite these and unfold no meaning. -/

namespace Sys2Proof.Machine

open Sys2Proof.Safety

/-! ### Steps -/

/-- Everything a step that goes on can do. -/
theorem step_cases {s t : State} (h : step s = .next t) :
    (s.inbox = [] ∧ t = idleStep s) ∨
    (∃ rest, s.inbox = .powerOn :: rest ∧ t = powerOnReset rest s) ∨
    (∃ w rest i, s.inbox = .word w :: rest ∧ decode w = .ok i ∧ exec i (takeWord rest s) = .next t) := by
  unfold step at h
  split at h
  · next e => exact .inl ⟨e, by injection h with h; exact h.symm⟩
  · next rest e => exact .inr (.inl ⟨rest, e, by injection h with h; exact h.symm⟩)
  · next w rest e =>
    split at h
    · cases h
    · next i hi => exact .inr (.inr ⟨w, rest, i, e, hi, h⟩)

/-- A run of one step more goes through the state after the first step. -/
theorem run_succ_cases (M : Host.Core) (n : Nat) (s t : M.State) (h : Host.Core.run M (n + 1) s = .next t) :
    ∃ u, M.step s = .next u ∧ Host.Core.run M n u = .next t := by
  unfold Host.Core.run at h
  split at h
  · next u hu => exact ⟨u, hu, h⟩
  · cases h
  · cases h

/-! ### Register bus -/

theorem regAt_zero : regAt 0#12 = some .ctrl := by decide

/-- The three things a READ can answer (20_memory.md R66). -/
theorem memRead_cases (addr : Addr) (s : State) :
    (regAt addr = none ∧ memRead addr s = (0#32, raise .badAccess s)) ∨
    (∃ r, regAt addr = some r ∧ memRead addr s = (readReg r s, s)) := by
  unfold memRead
  split
  · next e => exact .inl ⟨e, rfl⟩
  · next r e => exact .inr ⟨r, e, rfl⟩

/-- The four things a WRITE can do (20_memory.md R67). -/
theorem memWrite_cases (addr : Addr) (v : Word) (s : State) :
    (regAt addr = none ∧ memWrite addr v s = raise .badAccess s) ∨
    (∃ r, regAt addr = some r ∧ r.access = .ro ∧ memWrite addr v s = raise .badAccess s) ∨
    (∃ r, regAt addr = some r ∧ r.access = .rw ∧ memWrite addr v s = { s with cfg := storeCfg r v s.cfg }) ∨
    (∃ r, regAt addr = some r ∧ r.access = .wo ∧ memWrite addr v s = ctrlWrite v s) := by
  unfold memWrite
  split
  · next e => exact .inl ⟨e, rfl⟩
  · next r e =>
    rcases hr : r.access
    · exact .inr (.inr (.inl ⟨r, e, hr, rfl⟩))
    · exact .inr (.inl ⟨r, e, hr, rfl⟩)
    · exact .inr (.inr (.inr ⟨r, e, hr, rfl⟩))

/-- CTRL is the one write-only register. -/
theorem access_wo_iff {r : Reg} : r.access = .wo ↔ r = .ctrl := by cases r <;> simp [Reg.access]

/-! ### SAMPLE -/

/-- The input stage, field by field (41_demodulator.md R162, R163). -/
theorem takeSample_eq (x : Cplx) (s : State) :
    takeSample x s = { s with nfIn := s.nfIn || !finiteC x, xl := shiftIn s.xl (fin0C x) } := by
  unfold takeSample
  rcases finiteC x <;> simp [raiseIf, raise]

/-- The filter stage, field by field (41_demodulator.md R164 to R166). -/
theorem filterSample_eq (s : State) :
    filterSample s = { s with nfMf := s.nfMf || !finiteC (matchedFilter s.act s.xl),
                              dl := shiftIn s.dl (fin0C (matchedFilter s.act s.xl)) } := by
  unfold filterSample
  generalize matchedFilter s.act s.xl = f
  rcases h : finiteC f <;> simp [raiseIf, raise, h]

/-- The part of a SAMPLE before the strobe test, field by field (41_demodulator.md R162 to R168). -/
theorem sampleFront_eq (x : Cplx) (s : State) : sampleFront x s = countedDown x s := by
  rw [sampleFront, takeSample_eq, filterSample_eq]
  rfl

/-! The counted-down state leaves the rest alone. -/

@[simp] theorem countedDown_cfg (x : Cplx) (s : State) : (countedDown x s).cfg = s.cfg := rfl
@[simp] theorem countedDown_act (x : Cplx) (s : State) : (countedDown x s).act = s.act := rfl
@[simp] theorem countedDown_run (x : Cplx) (s : State) : (countedDown x s).run = s.run := rfl
@[simp] theorem countedDown_cfgErr (x : Cplx) (s : State) : (countedDown x s).cfgErr = s.cfgErr := rfl
@[simp] theorem countedDown_cfgCode (x : Cplx) (s : State) : (countedDown x s).cfgCode = s.cfgCode := rfl
@[simp] theorem countedDown_nfErr (x : Cplx) (s : State) : (countedDown x s).nfErr = s.nfErr := rfl
@[simp] theorem countedDown_badCmd (x : Cplx) (s : State) : (countedDown x s).badCmd = s.badCmd := rfl
@[simp] theorem countedDown_badAccess (x : Cplx) (s : State) : (countedDown x s).badAccess = s.badAccess := rfl
@[simp] theorem countedDown_theta (x : Cplx) (s : State) : (countedDown x s).theta = s.theta := rfl
@[simp] theorem countedDown_nu (x : Cplx) (s : State) : (countedDown x s).nu = s.nu := rfl
@[simp] theorem countedDown_tacc (x : Cplx) (s : State) : (countedDown x s).tacc = s.tacc := rfl
@[simp] theorem countedDown_mufrac (x : Cplx) (s : State) : (countedDown x s).mufrac = s.mufrac := rfl
@[simp] theorem countedDown_wreg (x : Cplx) (s : State) : (countedDown x s).wreg = s.wreg := rfl
@[simp] theorem countedDown_fill (x : Cplx) (s : State) : (countedDown x s).fill = s.fill := rfl
@[simp] theorem countedDown_miss (x : Cplx) (s : State) : (countedDown x s).miss = s.miss := rfl
@[simp] theorem countedDown_sync (x : Cplx) (s : State) : (countedDown x s).sync = s.sync := rfl
@[simp] theorem countedDown_pol (x : Cplx) (s : State) : (countedDown x s).pol = s.pol := rfl
@[simp] theorem countedDown_stderr (x : Cplx) (s : State) : (countedDown x s).stderr = s.stderr := rfl
@[simp] theorem countedDown_pkCount (x : Cplx) (s : State) : (countedDown x s).pkCount = s.pkCount := rfl
@[simp] theorem countedDown_pkBuf (x : Cplx) (s : State) : (countedDown x s).pkBuf = s.pkBuf := rfl
@[simp] theorem countedDown_inbox (x : Cplx) (s : State) : (countedDown x s).inbox = s.inbox := rfl
@[simp] theorem countedDown_events (x : Cplx) (s : State) : (countedDown x s).events = s.events := rfl
@[simp] theorem countedDown_result (x : Cplx) (s : State) : (countedDown x s).result = s.result := rfl
@[simp] theorem countedDown_nanDraws (x : Cplx) (s : State) : (countedDown x s).nanDraws = s.nanDraws := rfl

@[simp] theorem countedDown_xl (x : Cplx) (s : State) : (countedDown x s).xl = shiftIn s.xl (fin0C x) := rfl

@[simp] theorem countedDown_dl (x : Cplx) (s : State) :
    (countedDown x s).dl = shiftIn s.dl (fin0C (matchedFilter s.act (shiftIn s.xl (fin0C x)))) := rfl

@[simp] theorem countedDown_tau (x : Cplx) (s : State) : (countedDown x s).tau = F32.sub s.tau F32.one := rfl

/-- The strobe test sees the counted-down state. -/
theorem strobeDue_countedDown (x : Cplx) (s : State) : strobeDue (countedDown x s) = true ↔ IsStrobe s := Iff.rfl

theorem execSample_running {s : State} (i q : F32) (h : s.run = true) :
    execSample i q s = .next (acceptSample ⟨i, q⟩ s) := by simp [execSample, h]

theorem execSample_stopped {s : State} (i q : F32) (h : s.run = false) :
    execSample i q s = .next { s with result := .notAccepted } := by simp [execSample, h, answer]

/-- An accepted SAMPLE that is no strobe. -/
theorem acceptSample_between {x : Cplx} {s : State} (h : ¬ IsStrobe s) :
    acceptSample x s = advanceNco (countedDown x s) := by
  unfold acceptSample
  simp only [sampleFront_eq, strobeDue_countedDown, if_neg h]

/-- An accepted SAMPLE that is a strobe. -/
theorem acceptSample_strobe {x : Cplx} {s : State} (h : IsStrobe s) :
    acceptSample x s = advanceNco (strobe (countedDown x s)) := by
  unfold acceptSample
  simp only [sampleFront_eq, strobeDue_countedDown, if_pos h]

/-- A strobe: the loops' new values, all from the state before any update, then the symbol, then the extractor
(41_demodulator.md R160, R176 to R180). -/
theorem strobe_eq (s : State) :
    strobe s =
      extract (detect s).neg (emitSymbol (detect s).yOn
        { s with
          nfErr := s.nfErr || (!F32.isFinite (detect s).ep || !F32.isFinite (detect s).et)
          nu := F32.clamp (F32.add s.nu (F32.mul s.act.regs.loopOmega (discr s.act.regs.errClamp (detect s).ep)))
            (F32.neg s.act.regs.freqLimit) s.act.regs.freqLimit
          theta := F32.add s.theta (F32.mul s.act.regs.loopMu (discr s.act.regs.errClamp (detect s).ep))
          tacc := taccUpdate (discr s.act.regs.errClamp (detect s).et) s
          tau := F32.add s.tau (nextPeriod (discr s.act.regs.errClamp (detect s).et)
            (taccUpdate (discr s.act.regs.errClamp (detect s).et) s) s.act)
          mufrac := (detect s).p }) := by
  unfold strobe
  dsimp only
  generalize detect s = d
  rcases h : (!F32.isFinite d.ep || !F32.isFinite d.et) <;>
    simp [raiseIf, raise, carrierUpdate, timingUpdate, taccUpdate]

/-! ### Delay lines (41_demodulator.md R163, R166) -/

theorem shiftIn_zero {n : Nat} (entries : Vector Cplx n) (x : Cplx) (h : 0 < n) : (shiftIn entries x)[0] = x := by
  simp [shiftIn]

theorem shiftIn_succ {n : Nat} (entries : Vector Cplx n) (x : Cplx) (k : Nat) (h : k + 1 < n) :
    (shiftIn entries x)[k + 1] = entries[k] := by simp [shiftIn]

@[simp] theorem finiteC_fin0C (x : Cplx) : finiteC (fin0C x) = true := by
  have h : ∀ y : F32, F32.isFinite (F32.fin0 y) = true := by
    intro y
    unfold F32.fin0
    split
    · assumption
    · decide
  simp [finiteC, fin0C, h]

/-- A line of finite entries stays one when a sanitised value enters. -/
theorem finite_shiftIn {n : Nat} {entries : Vector Cplx n} (x : Cplx)
    (h : ∀ k (hk : k < n), finiteC entries[k] = true) (k : Nat) (hk : k < n) :
    finiteC (shiftIn entries (fin0C x))[k] = true := by
  rcases k with _ | k
  · rw [shiftIn_zero]; exact finiteC_fin0C x
  · rw [shiftIn_succ]; exact h _ _

/-! ### Invariants read a part of the state -/

/-- The control invariants read eleven fields. -/
theorem controlSound_congr {s t : State} (h : ControlSound s) (h1 : t.act = s.act) (h2 : t.run = s.run)
    (h3 : t.cfgErr = s.cfgErr) (h4 : t.cfgCode = s.cfgCode) (h5 : t.fill = s.fill) (h6 : t.miss = s.miss)
    (h7 : t.sync = s.sync) (h8 : t.pol = s.pol) (h9 : t.stderr = s.stderr) (h10 : t.pkCount = s.pkCount)
    (h11 : t.pkBuf = s.pkBuf) : ControlSound t := by
  obtain ⟨a, ⟨b1, b2, b3⟩, ⟨c1, c2, c3, c4⟩, ⟨d1, d2, d3⟩⟩ := h
  refine ⟨?_, ⟨?_, ?_, ?_⟩, ⟨?_, ?_, ?_, ?_⟩, ⟨?_, ?_, ?_⟩⟩
  · unfold Configured at *; rwa [h1, h2]
  · rwa [h10, h11]
  · rwa [h2, h10]
  · rwa [h2, h10, h1]
  · rwa [h2, h5, h1]
  · rwa [h2, h6, h1]
  · rwa [h2, h7, h6]
  · rwa [h2, h5, h1, h7, h8, h9]
  · rwa [h3, h4]
  · rwa [h4]
  · rwa [h2, h3]

/-- The loop bounds read ten fields. -/
theorem loopsBounded_congr {s t : State} (h : LoopsBounded s) (h1 : t.act = s.act) (h2 : t.xl = s.xl)
    (h3 : t.dl = s.dl) (h4 : t.theta = s.theta) (h5 : t.nu = s.nu) (h6 : t.tacc = s.tacc) (h7 : t.tau = s.tau)
    (h8 : t.mufrac = s.mufrac) (h9 : t.stderr = s.stderr) : LoopsBounded t := by
  obtain ⟨a1, a2, a3, a4, a5, a6, a7, a8, a9⟩ := h
  refine ⟨?_, ?_, ?_, ?_, ?_, ?_, ?_, ?_, ?_⟩
  · simpa only [h2] using a1
  · simpa only [h3] using a2
  · rwa [h4]
  · rwa [h4]
  · rwa [h5, h1]
  · rwa [h6, h1]
  · rwa [h7, h1]
  · rwa [h8]
  · rwa [h9]

/-! ### The lock state machine and the packer -/

/-- The four outcomes of an evaluated window (42_symbol_extractor.md R205 to R207). -/
theorem lockUpdate_cases (m : Match) (s : State) :
    (s.act.regs.uwThresh.toNat ≤ m.best ∧ lockUpdate m s = { s with sync := true, pol := m.inverted, miss := 0#32 }) ∨
    (m.best < s.act.regs.uwThresh.toNat ∧ s.sync = false ∧ lockUpdate m s = s) ∨
    (m.best < s.act.regs.uwThresh.toNat ∧ s.sync = true ∧ s.act.regs.unlockN.toNat ≤ s.miss.toNat + 1 ∧
      lockUpdate m s = { s with sync := false, miss := 0#32 }) ∨
    (m.best < s.act.regs.uwThresh.toNat ∧ s.sync = true ∧ s.miss.toNat + 1 < s.act.regs.unlockN.toNat ∧
      lockUpdate m s = { s with miss := BitVec.ofNat 32 (s.miss.toNat + 1) }) := by
  unfold lockUpdate
  rcases Nat.lt_or_ge m.best s.act.regs.uwThresh.toNat with h1 | h1
  · rw [if_neg (by omega)]
    rcases hs : s.sync
    · exact .inr (.inl ⟨h1, rfl, by simp⟩)
    · rcases Nat.lt_or_ge (s.miss.toNat + 1) s.act.regs.unlockN.toNat with h2 | h2
      · exact .inr (.inr (.inr ⟨h1, rfl, h2, by simp [Nat.not_le.2 h2]⟩))
      · exact .inr (.inr (.inl ⟨h1, rfl, h2, by simp [h2]⟩))
  · exact .inl ⟨h1, by rw [if_pos h1]⟩

/-- FILL counts up to UW_LEN (42_symbol_extractor.md R203). -/
theorem fillUpdate_toNat {s : State} (h : s.act.regs.uwLen.toNat ≤ 64) :
    (fillUpdate s).toNat = if s.fill.toNat < s.act.regs.uwLen.toNat then s.fill.toNat + 1 else s.fill.toNat := by
  unfold fillUpdate
  split
  · simp; omega
  · rfl

/-- The two outcomes of a packed byte (43_symbol_packer.md R230), where the buffer holds the live entries. -/
theorem pack_cases (b : Byte) {s : State} (h : s.pkBuf.length = s.pkCount.toNat) :
    (s.pkCount.toNat + 1 = s.act.regs.groupSize.toNat ∧
      pack b s = { s with pkBuf := [], pkCount := 0#13, events := s.events ++ [.groupOut (s.pkBuf ++ [b])] }) ∨
    (s.pkCount.toNat + 1 ≠ s.act.regs.groupSize.toNat ∧
      pack b s = { s with pkBuf := s.pkBuf ++ [b], pkCount := BitVec.ofNat 13 (s.pkCount.toNat + 1) }) := by
  have e : appendByte b s = s.pkBuf ++ [b] := by rw [appendByte, ← h, List.take_length]
  unfold pack
  rw [e]
  split
  · next hc => exact .inl ⟨hc, rfl⟩
  · next hc => exact .inr ⟨hc, rfl⟩

/-- A packed byte presents nothing, or one group. -/
theorem pack_events_cases (b : Byte) (s : State) :
    (pack b s).events = s.events ∨ ∃ bytes, (pack b s).events = s.events ++ [.groupOut bytes] := by
  unfold pack
  split
  · exact .inr ⟨_, rfl⟩
  · exact .inl rfl

/-- A symbol presents its byte first, then nothing or one group (42_symbol_extractor.md R209). -/
theorem extract_events_cases (neg : Bool) (s : State) :
    (extract neg s).events = s.events ++ [.bitOut (outByte (!neg) s.pol)] ∨
    ∃ bytes, (extract neg s).events = s.events ++ [.bitOut (outByte (!neg) s.pol), .groupOut bytes] := by
  unfold extract
  dsimp only
  rcases pack_events_cases (outByte (!neg) s.pol)
    (emit (.bitOut (outByte (!neg) s.pol)) (updateWindow (!neg) s)) with h | ⟨bytes, h⟩
  · exact .inl (by rw [h]; simp)
  · exact .inr ⟨bytes, by rw [h]; simp⟩

end Sys2Proof.Machine
end

