-- ==== Sys2Proof/Tests/Slice0.lean ====
section
/-! SUPPORT. The session's own tests: words and results from spec/95_test_vectors.md and the rules' examples, and for each
statement with hypotheses a state and operands that meet them. -/

namespace Sys2Proof.Tests

open Sys2Proof.Machine Sys2Proof.Safety

/-! ### Well-formedness smoke test: an ill-formed term for each check -/

theorem test_wf_refuses_write_at_ctrl : (Instr.write 0x000#12 5#32).wf = false := by decide

theorem test_wf_takes_write_elsewhere : (Instr.write 0x010#12 5#32).wf = true := by decide

/-! ### Decoding (95_test_vectors.md 2.1): every constructor, and every refusal -/

theorem test_decode_sample_nan : decode 0x013F8000007FC00000#72 = .ok (.sample 0x7FC00000#32 0x3F800000#32) := rfl

theorem test_decode_write : decode 0x020000001040000000#72 = .ok (.write 0x010#12 0x40000000#32) := rfl

theorem test_decode_read_unmapped : decode 0x0300000FFC00000000#72 = .ok (.read 0xFFC#12) := rfl

theorem test_decode_ctrl_none_clr : decode 0x020000000000000010#72 = .ok (.ctrlNone true) := rfl

theorem test_decode_ctrl_start : decode 0x020000000000000001#72 = .ok (.ctrlStart false) := rfl

theorem test_decode_ctrl_stop_ignored_bits : decode 0x0200000000FFFFFFEE#72 = .ok (.ctrlStop false) := rfl

theorem test_decode_ctrl_rsvd_clr : decode 0x020000000000000013#72 = .ok (.ctrlRsvd true) := rfl

theorem test_decode_refuses_kind_zero : decode 0x000000000000000000#72 = .error .badKind := rfl

theorem test_decode_refuses_kind_four : decode 0x040000000000000000#72 = .error .badKind := rfl

theorem test_decode_refuses_write_hi : decode 0x020000100000000001#72 = .error .writeHiNonzero := rfl

theorem test_decode_refuses_read_hi : decode 0x030000100000000000#72 = .error .readHiNonzero := rfl

theorem test_decode_refuses_read_data : decode 0x030000000400000001#72 = .error .readDataNonzero := rfl

theorem test_encode_write_h63 : encode (.write 0x4FC#12 0x7F800000#32) = 0x02000004FC7F800000#72 := by decide

theorem test_table_word : decodeTableWord 72 0x020000000000000011 = some (.ctrlStart true) := rfl

theorem test_assemble_setf :
    (AsmLine.setf (.name .sampleRate) ⟨false, 2, 0⟩).word = 0x020000001040000000#72 := by decide +kernel

theorem test_assemble_f32_decimal : (Decimal.toF32 ⟨false, 2, 1⟩) = 0x3E4CCCCD#32 := by decide +kernel

/-- 95_test_vectors.md V-G1. -/
theorem test_gain_v_g1 :
    f32OfRat (gainMu (1 / 100) (707 / 1000)) = 0x3CE46AC7#32 ∧
    f32OfRat (gainOmega (1 / 100) (707 / 1000)) = 0x39CEC552#32 := by decide +kernel

/-! ### Numbers (95_test_vectors.md 2.4, 2.5) -/

/-- V-N9. -/
theorem test_wrap_far : F32.wrap 0x4A742400#32 = 0xBFC55210#32 := by decide +kernel

theorem test_wrap_pi : F32.wrap F32.piF = 0xC0490FDB#32 := by decide +kernel

theorem test_clamp_keeps_negative_zero : F32.clamp 0x80000000#32 0xBF000000#32 0x3F000000#32 = 0x80000000#32 := by
  decide +kernel

theorem test_add_rounds_to_even : F32.add 0x4B800000#32 0x3F800000#32 = 0x4B800000#32 := by decide +kernel

/-- V-S9: with `(c, s) = TRIG_REF(0.5)`. -/
theorem test_derot_v_s9 :
    derot ⟨0x3F60A940#32, 0x3EF57744#32⟩ (0x3F60A940#32, 0x3EF57744#32) = ⟨0x3F800000#32, 0x00000000#32⟩ := by
  decide +kernel

/-- V-S7 at p = 0.25. -/
theorem test_interp_v_s7 :
    interp ((Vector.replicate 18 ⟨0#32, 0#32⟩).set 0 ⟨0x3F800000#32, 0#32⟩ |>.set 1 ⟨0xBF800000#32, 0x3F000000#32⟩) 0
      0x3E800000#32 = ⟨0x3F000000#32, 0x3E000000#32⟩ := by decide +kernel

/-! ### Small states -/

/-- CFG_V of 95_test_vectors.md 2. -/
def cfgV : CfgRegs :=
  { CfgRegs.reset with
    sampleRate := 0x40000000#32, symbolRate := 0x3F800000#32, filterSpan := 1#32
    freqLimit := 0x3F000000#32, elSpacing := 1#32, errClamp := 0x3F800000#32
    uwLen := 4#32, uwThresh := 4#32, unlockN := 2#32, seK := 0x3F000000#32, groupSize := 3#32, uwPatLo := 0xB#32
    h := CfgRegs.reset.h.set 0 0x3F800000#32 }

/-- The block programmed with CFG_V, stopped. -/
def programmed : State := { State.reset with cfg := cfgV }

/-- The block started on CFG_V. -/
def running : State := start programmed

/-- The next state, for tests. -/
def after (i : Instr) (s : State) : State :=
  match exec i s with
  | .next t => t
  | .fault _ => s
  | .refused _ => s

/-- Is there a next state? -/
def goesOn (o : Host.Outcome State Fault Refusal) : Bool :=
  match o with
  | .next _ => true
  | .fault _ => false
  | .refused _ => false

/-- Started on CFG_V, one sample in: the next sample is a strobe. -/
def atStrobe : State := after (.sample 0x3F800000#32 0#32) running

/-! ### One step of each transaction (95_test_vectors.md 2.2 to 2.8) -/

/-- V-S2. -/
theorem test_sample_counts_down : atStrobe.tau = 0x3F800000#32 ∧ atStrobe.events = [] := by decide +kernel

/-- V-S3. -/
theorem test_sample_strobe :
    (after (.sample 0x3F800000#32 0#32) atStrobe).events = [.symOut 0x3F800000#32 0#32, .bitOut 1#8] ∧
    (after (.sample 0x3F800000#32 0#32) atStrobe).tau = 0x40000000#32 := by decide +kernel

/-- V-M13. -/
theorem test_write_unmapped : statusWord (after (.write 0x500#12 0x12345678#32) State.reset) = 0x00001000#32 := by
  decide +kernel

/-- V-M11, V-M12. -/
theorem test_write_last_tap :
    (after (.read 0x4FC#12) (after (.write 0x4FC#12 0x7F800000#32) State.reset)).result = .response 0x7F800000#32 := by
  decide +kernel

/-- V-M1. -/
theorem test_read_stderr : (after (.read 0x008#12) State.reset).result = .response 0x3F000000#32 := by decide +kernel

/-- V-M9. -/
theorem test_read_misaligned :
    (after (.read 0x011#12) State.reset).result = .response 0#32 ∧
    statusWord (after (.read 0x011#12) State.reset) = 0x00001000#32 := by decide +kernel

/-- V-K6. -/
theorem test_ctrl_none_clr :
    statusWord (after (.ctrlNone true) { State.reset with nfIn := true, badAccess := true }) = 0#32 := by decide +kernel

/-- V-C0. -/
theorem test_ctrl_start_ok : statusWord running = 0x00000001#32 ∧ running.tau = 0x40000000#32 := by decide +kernel

/-- V-C14. -/
theorem test_ctrl_start_fails_tap :
    statusWord (after (.ctrlStart false)
      { programmed with cfg := { cfgV with h := cfgV.h.set 0 0x7F800000#32 } }) = 0x000000E8#32 := by decide +kernel

/-- V-K1. -/
theorem test_ctrl_stop :
    statusWord (after (.ctrlStop false) atStrobe) = 0#32 ∧ (after (.ctrlStop false) atStrobe).tau = 0x3F800000#32 := by
  decide +kernel

/-- V-M5. -/
theorem test_ctrl_rsvd_clr :
    statusWord (after (.ctrlRsvd true) { State.reset with badAccess := true }) = 0x00000800#32 := by decide +kernel

/-- V-M10: a READ runs as the first instruction after reset. -/
theorem test_step_read_ctrl :
    step (State.reset.withFetchWord 72 0x030000000000000000) =
      .next { State.reset with result := .response 0#32 } := rfl

/-! ### Witnesses: the hypotheses of each statement are met, clause by clause -/

theorem witness_DecodeOfEncodeIsIdentity :
    (Instr.write 0x001#12 0xFFFFFFFF#32).wf = true ∧ (Instr.write 0xFFF#12 0#32).wf = true := by decide

theorem witness_EncodeOfDecodeDropsOnlyIgnoredBits :
    (decode 0x0200000000FFFFFFEE#72 = .ok (.ctrlStop false) ∧ kindOf 0x0200000000FFFFFFEE#72 = 0x02#8 ∧
      addrOf 0x0200000000FFFFFFEE#72 = 0#12) ∧
    (decode 0x020000000100000000#72 = .ok (.write 0x001#12 0#32) ∧ addrOf 0x020000000100000000#72 ≠ 0#12) := by decide

theorem witness_ExactlyTheInvalidWordsAreRefused :
    ∃ s : State, s.inbox = .word 0x000000000000000000#72 :: [.word 0x03FFFFFFFFFFFFFFFF#72] := ⟨{ State.reset with
      inbox := [.word 0x000000000000000000#72, .word 0x03FFFFFFFFFFFFFFFF#72] }, rfl⟩

/-- The edges of R98's three clauses: KIND 0 and 4, one bit of HI, one bit of DATA, and their valid neighbours. -/
theorem witness_ExactlyTheInvalidWordsAreRefused_edges :
    (decode 0x000000000000000000#72).toOption = none ∧ (decode 0x040000000000000000#72).toOption = none ∧
    (decode 0x020000100000000000#72).toOption = none ∧ (decode 0x030000100000000000#72).toOption = none ∧
    (decode 0x030000000000000001#72).toOption = none ∧
    (decode 0x020000000000000000#72).toOption = some (.ctrlNone false) ∧
    (decode 0x030000000000000000#72).toOption = some (.read 0#12) := by decide

theorem witness_StepPerformsThePresentedTransaction :
    ∃ (s : State) (t : TWord) (i : Instr), s.inbox = .word t :: [] ∧ decode t = .ok i :=
  ⟨State.reset.withFetchWord 72 0x030000000000000000, 0x030000000000000000#72, .read 0#12, rfl, rfl⟩

theorem witness_ResetInputAndIdleSteps :
    (∃ s : State, s.inbox = .powerOn :: []) ∧ ∃ s : State, s.inbox = [] :=
  ⟨⟨{ State.reset with inbox := [.powerOn] }, rfl⟩, State.reset, rfl⟩

/-- The edges of the map's ranges: the last address of each and the one after it, and a misaligned address. -/
theorem witness_RegisterMapIsTheTables :
    regAt 0x000#12 = some .ctrl ∧ regAt 0x008#12 = some .stderr ∧ regAt 0x00C#12 = none ∧
    regAt 0x010#12 = some .sampleRate ∧ regAt 0x058#12 = some .uwPatHi ∧ regAt 0x05C#12 = none ∧
    regAt 0x080#12 = some .theta ∧ regAt 0x0A4#12 = some .wregHi ∧ regAt 0x0A8#12 = none ∧ regAt 0x3FC#12 = none ∧
    regAt 0x400#12 = some (.h 0) ∧ regAt 0x4FC#12 = some (.h 63) ∧ regAt 0x500#12 = none ∧ regAt 0x401#12 = none := by
  decide +kernel

theorem witness_ReadAnswersTheRegister :
    regAt 0x4FC#12 = some (.h 63) ∧ ¬ Mapped (0x500#12).toNat ∧ ¬ Mapped (0x001#12).toNat := by decide +kernel

theorem witness_WriteStoresOrRaises :
    (regAt 0x058#12 = some .uwPatHi ∧ Reg.uwPatHi.access = .rw) ∧ ¬ Mapped (0x05C#12).toNat ∧
    ReadOnly (0x004#12).toNat ∧ ReadOnly (0x0A4#12).toNat ∧ ¬ ReadOnly (0x0A8#12).toNat ∧
    ¬ ReadOnly (0x000#12).toNat ∧ Mapped (0x000#12).toNat := by decide +kernel

theorem witness_WrittenRegisterReadsBack : Reg.sampleRate.access = .rw ∧ (Reg.h 63).access = .rw := ⟨rfl, rfl⟩

theorem valid_cfgV : validate cfgV = 0#4 := by decide +kernel

theorem run_running : running.run = true := by decide +kernel

theorem run_atStrobe : atStrobe.run = true := by decide +kernel

theorem strobe_atStrobe : IsStrobe atStrobe := by decide +kernel

theorem between_running : ¬ IsStrobe running := by decide +kernel

theorem witness_DatapathIgnoresProgrammedConfiguration :
    ∃ t, exec (.sample 0x3F800000#32 0#32) running = .next t := ⟨_, execSample_running _ _ run_running⟩

theorem witness_FailedStartReportsTheCode :
    validate State.reset.cfg ≠ 0#4 ∧ validate { cfgV with h := cfgV.h.set 0 0x7F800000#32 } = 14#4 := by decide +kernel

theorem witness_SuccessfulStartLatchesAndInitialises : validate programmed.cfg = 0#4 := valid_cfgV

/-- Check 3 at the edges of its range: SPS = 2.0 passes, the number below fails, 65536.0 passes, the number above
fails. -/
theorem witness_ValidateGivesTheFirstFailingCheck :
    validate cfgV = 0#4 ∧ validate { cfgV with sampleRate := 0x3FFFFFFF#32 } = 3#4 ∧
    validate { cfgV with sampleRate := 0x47800000#32 } = 0#4 ∧ validate { cfgV with sampleRate := 0x47800001#32 } = 3#4 := by
  decide +kernel

theorem witness_TimingWindowIsOrdered :
    validate cfgV = 0#4 ∧ validate { cfgV with timLimit := 0x3F000000#32 } = 0#4 := by decide +kernel

theorem packerSound_reset : PackerSound State.reset := ⟨rfl, fun _ => rfl, fun h => by cases h⟩

theorem witness_StopWhileStoppedChangesNothing : PackerSound State.reset ∧ State.reset.run = false :=
  ⟨packerSound_reset, rfl⟩

theorem witness_StickyBitsStayUntilCleared :
    (∃ t, exec (.read 0x500#12) { State.reset with nfIn := true } = .next t ∧ ¬ ClearsSticky (.read 0x500#12) ∧
      sticky .nfIn { State.reset with nfIn := true } = true) ∧
    (∃ t, exec (.ctrlRsvd true) State.reset = .next t ∧ ClearsSticky (.ctrlRsvd true) ∧ sticky .badCmd t = true) :=
  ⟨⟨_, rfl, fun h => h, rfl⟩, _, rfl, rfl, rfl⟩

/-- Each of the five events is raised once: an infinite input, an overflowing filter, an overflowing timing
discriminant, the reserved command, an unmapped address. -/
theorem witness_EventsHaveTheirCauses :
    (running.nfIn = false ∧ (acceptSample ⟨0x7F800000#32, 0#32⟩ running).nfIn = true) ∧
    (running.nfMf = false ∧ (acceptSample ⟨0x7F7FFFFF#32, 0#32⟩
      { running with act := { running.act with regs := { cfgV with h := cfgV.h.set 0 0x40000000#32 } } }).nfMf = true) ∧
    (atStrobe.nfErr = false ∧ (acceptSample ⟨0x7F7FFFFF#32, 0#32⟩
      { atStrobe with dl := atStrobe.dl.set 1 ⟨0xFF7FFFFF#32, 0#32⟩ }).nfErr = true) ∧
    (running.badCmd = false ∧ (after (.ctrlRsvd false) running).badCmd = true) ∧
    (running.badAccess = false ∧ (after (.write 0x004#12 0#32) running).badAccess = true) := by decide +kernel

theorem witness_OnlyAcceptedSamplesEmit :
    ∃ t, exec (.sample 0#32 0#32) atStrobe = .next t ∧ t.events ≠ atStrobe.events :=
  ⟨_, execSample_running _ _ run_atStrobe, by decide +kernel⟩

theorem witness_RunChangesOnlyByStartAndStop :
    (∃ t, exec (.ctrlStart false) programmed = .next t ∧ t.run ≠ programmed.run) ∧
    (∃ t, exec (.ctrlStop true) running = .next t ∧ t.run ≠ running.run) :=
  ⟨⟨_, rfl, by decide +kernel⟩, _, rfl, by decide +kernel⟩

theorem witness_ConfigurationMovesOnlyByWriteAndStart :
    (∃ t, exec (.ctrlStart false) programmed = .next t ∧ t.act ≠ programmed.act) ∧
    (∃ t, exec (.write 0x010#12 1#32) programmed = .next t ∧ t.cfg ≠ programmed.cfg) :=
  ⟨⟨_, rfl, by decide +kernel⟩, _, rfl, by decide +kernel⟩

theorem witness_StoppedSampleIsNotAccepted : State.reset.run = false := rfl

theorem witness_SampleBetweenStrobes : running.run = true ∧ ¬ IsStrobe running := ⟨run_running, between_running⟩

theorem witness_SampleAtStrobe : atStrobe.run = true ∧ IsStrobe atStrobe := ⟨run_atStrobe, strobe_atStrobe⟩

theorem witness_SampleFrame :
    (∃ t, exec (.sample 0#32 0#32) running = .next t ∧ running.run = true ∧ ¬ IsStrobe running) ∧
    (∃ t, exec (.sample 0#32 0#32) atStrobe = .next t ∧ atStrobe.run = true ∧ IsStrobe atStrobe) :=
  ⟨⟨_, execSample_running _ _ run_running, run_running, between_running⟩,
    _, execSample_running _ _ run_atStrobe, run_atStrobe, strobe_atStrobe⟩

theorem witness_SampleShiftsBothDelayLines :
    ∃ t, exec (.sample 0x7FC00000#32 0#32) running = .next t ∧ running.run = true :=
  ⟨_, execSample_running _ _ run_running, run_running⟩

/-- A strobe whose byte fills the group of three presents three events. -/
theorem witness_SampleEventsComeInOrder :
    (acceptSample ⟨0#32, 0#32⟩ running).events = [] ∧ (acceptSample ⟨0#32, 0#32⟩ atStrobe).events.length = 2 ∧
    (acceptSample ⟨0#32, 0#32⟩ { atStrobe with pkBuf := [1#8, 0#8], pkCount := 2#13 }).events.length = 3 := by
  decide +kernel

theorem control_of_running {s : State} (hr : s.run = true) (hv : validate s.act.regs = 0#4)
    (ha : s.act = latchActive s.act.regs) (hl : s.pkBuf.length = s.pkCount.toNat)
    (hp : s.pkCount.toNat < s.act.regs.groupSize.toNat) (hf : s.fill.toNat ≤ s.act.regs.uwLen.toNat)
    (hm : s.miss.toNat < s.act.regs.unlockN.toNat) (hu : s.sync = false → s.miss = 0#32)
    (hs : s.fill.toNat < s.act.regs.uwLen.toNat → s.sync = false ∧ s.pol = false ∧ s.stderr = F32.half)
    (hc : s.cfgErr = false) (hk : s.cfgCode = 0#4) : ControlSound s :=
  ⟨fun _ => ⟨hv, ha⟩, ⟨hl, fun h => (by rw [hr] at h; cases h), fun _ => hp⟩,
    ⟨fun _ => hf, fun _ => hm, fun _ => hu, fun _ => hs⟩,
    ⟨by rw [hc, hk]; decide, by rw [hk]; decide, fun _ => hc⟩⟩

theorem control_running : ControlSound running := by apply control_of_running <;> decide +kernel

theorem control_atStrobe : ControlSound atStrobe := by apply control_of_running <;> decide +kernel

theorem sound_running : Sound running :=
  ⟨control_running, fun _ => ⟨by decide +kernel, by decide +kernel, by decide +kernel, by decide +kernel,
    by decide +kernel, by decide +kernel, by decide +kernel, by decide +kernel, by decide +kernel⟩⟩

theorem sound_atStrobe : Sound atStrobe :=
  ⟨control_atStrobe, fun _ => ⟨by decide +kernel, by decide +kernel, by decide +kernel, by decide +kernel,
    by decide +kernel, by decide +kernel, by decide +kernel, by decide +kernel, by decide +kernel⟩⟩

/-- One sample left is a strobe, two left is none. -/
theorem witness_CountdownIsExact :
    (Sound atStrobe ∧ atStrobe.run = true ∧ atStrobe.tau = F32.one) ∧
    (Sound running ∧ running.run = true ∧ ¬ IsStrobe running) :=
  ⟨⟨sound_atStrobe, run_atStrobe, by decide +kernel⟩, sound_running, run_running, between_running⟩

theorem witness_FilterAddsTapByTap :
    State.reset.act.regs.filterSpan = 0#32 ∧
    { cfgV with filterSpan := 64#32 }.filterSpan = BitVec.ofNat 32 (63 + 1) ∧ 63 < Config.mfMax := by decide

theorem witness_OneUnitTapPassesThrough :
    running.act.regs.filterSpan = 1#32 ∧ running.act.regs.h[0] = F32.one ∧ finiteC running.xl[0] = true := by
  decide +kernel

theorem witness_InterpolatorMeetsItsEndpoints :
    16 + 1 < Config.dlLen ∧ finiteC running.dl[16] = true ∧ finiteC running.dl[17] = true := by decide +kernel

theorem witness_ZeroPhaseDoesNotRotate :
    finiteC ⟨0x3F800000#32, 0x80000000#32⟩ = true ∧ F32.isZero 0x80000000#32 = true ∧ F32.isZero 0#32 = true := by
  decide

/-- A NaN quadrature value is shut out of the second clause, and every other is met. -/
theorem witness_DetectorsAreDecisionDirected :
    F32.isNaN (detect running).yOn.q = false ∧ (detect running).neg = false ∧
    F32.isNaN (F32.sub (derot (interp running.dl 0 (F32.sub F32.zero running.tau)) (F32.trig running.theta)).i
      (derot (interp running.dl (2 * running.act.regs.elSpacing.toNat) (F32.sub F32.zero running.tau))
        (F32.trig running.theta)).i) = false := by decide +kernel

theorem witness_ZeroTimingLimitOpensTheLoop :
    validate cfgV = 0#4 ∧ F32.isZero cfgV.timLimit = true ∧
    Bounded (F32.neg cfgV.errClamp) cfgV.errClamp cfgV.errClamp ∧
    Bounded (F32.neg (latchActive cfgV).rlim) 0x80000000#32 (latchActive cfgV).rlim := by decide +kernel

theorem witness_LoopsIgnoreTheExtractor :
    ∃ t, exec (.sample 0x3F800000#32 0#32) atStrobe = .next t := ⟨_, execSample_running _ _ run_atStrobe⟩

/-- UW_LEN at its largest; a window that is not full after the symbol, and one that becomes full with it. -/
theorem witness_WindowShiftsAndFills :
    { cfgV with uwLen := 64#32 }.uwLen.toNat ≤ 64 ∧ running.act.regs.uwLen.toNat ≤ 64 ∧
    (extract true running).fill.toNat ≠ running.act.regs.uwLen.toNat ∧
    (extract true { running with fill := 3#7 }).fill.toNat = running.act.regs.uwLen.toNat := by decide +kernel

/-- The outcomes of an evaluated window: threshold met exactly, missed while searching, a first miss while locked, the
miss that unlocks. UW_LEN = UW_THRESH = 4, UNLOCK_N = 2, and the pattern is 1011. -/
theorem witness_LockMachineAndErrorEstimate :
    ((extract false { running with fill := 3#7, wreg := 5#64 }).fill.toNat = 4 ∧
      4 ≤ (correlate running.act (extract false { running with fill := 3#7, wreg := 5#64 }).wreg).best) ∧
    (¬ 4 ≤ (correlate running.act (extract true { running with fill := 4#7, wreg := 5#64 }).wreg).best ∧
      running.sync = false) ∧
    ((0#32).toNat + 1 < running.act.regs.unlockN.toNat ∧ running.act.regs.unlockN.toNat ≤ (1#32).toNat + 1 ∧
      (extract true { running with fill := 4#7, wreg := 5#64, sync := true }).sync = true ∧
      (extract true { running with fill := 4#7, wreg := 5#64, sync := true, miss := 1#32 }).sync = false) := by
  decide +kernel

/-- The pattern itself, its complement, and a tie. -/
theorem witness_DualCorrelation :
    validate cfgV = 0#4 ∧ correlate (latchActive cfgV) 0xB#64 = ⟨4, false⟩ ∧
    correlate (latchActive cfgV) 0x4#64 = ⟨4, true⟩ ∧ correlate (latchActive cfgV) 0x8#64 = ⟨2, false⟩ := by
  decide +kernel

theorem witness_PackAppendsThenDelivers :
    (ControlSound running ∧ running.run = true ∧ running.pkCount.toNat + 1 < running.act.regs.groupSize.toNat) ∧
    ControlSound { running with pkBuf := [1#8, 0#8], pkCount := 2#13 } ∧ 2 + 1 = running.act.regs.groupSize.toNat :=
  ⟨⟨control_running, run_running, by decide +kernel⟩, by apply control_of_running <;> decide +kernel,
    by decide +kernel⟩

/-- A running block one byte short of its group, with a strobing SAMPLE and a READ to come. -/
def nearGroup : State :=
  { atStrobe with pkBuf := [1#8, 0#8], pkCount := 2#13,
                  inbox := [.word 0x01000000003F800000#72, .word 0x030000009C00000000#72] }

theorem keeps_nearGroup : ∀ x ∈ nearGroup.inbox.take 2, KeepsRunning x := by
  intro x hx
  have : x = .word 0x01000000003F800000#72 ∨ x = .word 0x030000009C00000000#72 := by
    simpa [nearGroup] using hx
  rcases this with rfl | rfl <;> trivial

theorem witness_GroupsReproduceTheBits :
    ControlSound nearGroup ∧ nearGroup.run = true ∧ (∀ x ∈ nearGroup.inbox.take 2, KeepsRunning x) ∧
    (groupPayloads (runEvents 2 nearGroup)) = [[1#8, 0#8, 1#8]] :=
  ⟨by apply control_of_running <;> decide +kernel, run_atStrobe, keeps_nearGroup, by decide +kernel⟩

theorem witness_GroupsAreFullAndCounted :
    (match Host.Core.run Sys2Proof.core 2 nearGroup with
      | .next t => decide (t.pkCount = 0#13)
      | .fault _ => false
      | .refused _ => false) = true ∧ ControlSound nearGroup ∧ nearGroup.run = true :=
  ⟨by decide +kernel, by apply control_of_running <;> decide +kernel, run_atStrobe⟩

/-- The largest finite value plus just under, and exactly, half a step; and two products. -/
theorem witness_SumsAndProductsRoundToNearestEven :
    (F32.units 0x7F7FFFFF#32 + F32.units 0x72FFFFFF#32).natAbs < (2 ^ 25 - 1) * 2 ^ 252 ∧
    (2 ^ 25 - 1) * 2 ^ 252 ≤ (F32.units 0x7F7FFFFF#32 + F32.units 0x73000000#32).natAbs ∧
    (F32.units F32.one * F32.units F32.two).natAbs < (2 ^ 25 - 1) * 2 ^ 252 * 2 ^ 149 ∧
    (2 ^ 25 - 1) * 2 ^ 252 * 2 ^ 149 ≤ (F32.units 0x7F7FFFFF#32 * F32.units F32.two).natAbs := by decide +kernel

theorem witness_QuotientsRoundToNearestEven :
    F32.isFinite F32.one = true ∧ F32.isFinite 0x40400000#32 = true ∧ F32.isZero 0x40400000#32 = false ∧
    (2 ^ 25 - 1) * 2 ^ 252 * (F32.units 0x00000001#32).natAbs ≤
      (F32.units F32.one * 2 ^ 149 * (F32.units 0x00000001#32).sign).natAbs := by decide +kernel

/-- The edges of Wrap's range: -PI_F is kept, PI_F is not, and the largest finite number is reduced. -/
theorem witness_WrapIsTheExactRemainderRoundedOnce :
    F32.isFinite 0x7F7FFFFF#32 = true ∧ F32.wrap (F32.neg F32.piF) = F32.neg F32.piF ∧
    F32.wrap F32.piF = F32.neg F32.piF := by decide +kernel

theorem control_nearGroup : ControlSound nearGroup := by apply control_of_running <;> decide +kernel

theorem witness_StepKeepsControlSound :
    ControlSound nearGroup ∧ goesOn (step nearGroup) = true := ⟨control_nearGroup, by decide +kernel⟩

/-- The running block with a SAMPLE to come. -/
def sampleComing : State := { running with inbox := [.word 0x01000000003F800000#72] }

theorem witness_StepKeepsSound : Sound sampleComing ∧ goesOn (step sampleComing) = true :=
  ⟨⟨controlSound_congr control_running rfl rfl rfl rfl rfl rfl rfl rfl rfl rfl rfl, fun _ =>
    loopsBounded_congr (sound_running.loops run_running) rfl rfl rfl rfl rfl rfl rfl rfl rfl⟩, by decide +kernel⟩

/-- Two orders of the writes, the table's and its reverse; each presented sequence is 20 writes, the commands, a read. -/
theorem witness_BootSequenceStartsTheBlock :
    validate cfgV = 0#4 ∧ (bootTargets cfgV).Perm (bootTargets cfgV) ∧
    (bootTargets cfgV).reverse.Perm (bootTargets cfgV) ∧
    (bootSequence (bootTargets cfgV).reverse cfgV true).length = 23 ∧
    (bootSequence (bootTargets cfgV) cfgV false).length = 22 ∧
    ∃ s : State, s.inbox = (bootSequence (bootTargets cfgV).reverse cfgV true).map (fun i => .word (encode i)) :=
  ⟨by decide +kernel, .refl _, List.reverse_perm _, by decide +kernel, by decide +kernel,
    { State.reset with inbox := _ }, rfl⟩

theorem witness_HostGainsPassCheckFive : (0 : ℚ) ≤ 0 ∧ (0 : ℚ) ≤ 1 / 100 := by decide +kernel

end Sys2Proof.Tests
end

section
/-! PROOF. The power-on reset values (10_state.md R49): what each register reads and what each array and sticky bit
holds in the reset state. -/

namespace Sys2Proof.Machine

/-- 10_state.md R24: the coefficient RAM. -/
@[simp] theorem reset_tap (k : Nat) (hk : k < Config.mfMax) : State.reset.cfg.h[k] = 0#32 :=
  Vector.getElem_replicate hk

/-- 10_state.md R29: the matched-filter input delay line. -/
@[simp] theorem reset_xl (k : Nat) (hk : k < Config.mfMax) : State.reset.xl[k] = ⟨0#32, 0#32⟩ :=
  Vector.getElem_replicate hk

/-- 10_state.md R30: the interpolator delay line. -/
@[simp] theorem reset_dl (k : Nat) (hk : k < Config.dlLen) : State.reset.dl[k] = ⟨0#32, 0#32⟩ :=
  Vector.getElem_replicate hk

/-- 10_state.md R28: no event has been raised. -/
@[simp] theorem sticky_reset (e : StatusEvent) : sticky e State.reset = false := by cases e <;> rfl

/-- STATUS as the host reads it first (20_memory.md R80). -/
@[simp] theorem statusWord_reset : statusWord State.reset = 0#32 := by decide

/-- STDERR alone starts at a nonzero value, so every other register reads as 0, debug registers included. -/
theorem readReg_reset (r : Reg) (hr : r ≠ .stderr) : readReg r State.reset = 0#32 := by
  cases r with
  | stderr => exact absurd rfl hr
  | status => exact statusWord_reset
  | h k => exact reset_tap k k.isLt
  | _ => rfl

/-- Settles O9: the registers by `readReg_reset`, the arrays and the sticky bits by their lemmas; the scalar fields, in
the statement's order (STDERR, the active configuration, the START result, the loops, framing and packer), are those
that `State.reset` and `Active.reset` write down. -/
theorem resetValuesAreTheSpecs : Obligations.ResetValuesAreTheSpecs :=
  ⟨readReg_reset, rfl, rfl,
    rfl, rfl, rfl, rfl, rfl, rfl, rfl, rfl,
    rfl, rfl, rfl,
    sticky_reset, reset_xl, reset_dl,
    rfl, rfl, rfl, rfl, rfl, rfl, rfl, rfl, rfl, rfl, rfl⟩

end Sys2Proof.Machine
end

section
/-! PROOF. The register bus (20_memory.md R63 to R67): which addresses name a register, and what READ and WRITE do at
each address. -/

namespace Sys2Proof.Machine

open Sys2Proof.Safety

/-! ### The map -/

/-- The address of tap `k`, with no wrap at 12 bits. -/
theorem addr_h_toNat (k : Fin Config.mfMax) : (Reg.h k).addr.toNat = 0x400 + 4 * k.val := by
  have hk : k.val < 64 := k.isLt
  rw [Reg.addr, BitVec.toNat_ofNat]
  omega

/-- Each row of the map stands at its register's own address. -/
theorem addr_of_mem_regRows : ∀ p ∈ regRows, p.2.addr.toNat = p.1 := by decide

/-- An address names no register but the one that stands there: below 0x400 by the rows, above by the taps' stride. -/
theorem addr_of_regAt {a : Addr} {r : Reg} (h : regAt a = some r) : r.addr = a := by
  apply BitVec.eq_of_toNat_eq
  unfold regAt at h
  simp only at h
  split at h
  · obtain ⟨before, after, hrows, -⟩ := List.lookup_eq_some_iff.1 h
    exact addr_of_mem_regRows (a.toNat, r) (by simp [hrows])
  · split at h
    · next htap =>
      obtain rfl := Option.some.inj h
      rw [addr_h_toNat]
      dsimp only
      omega
    · cases h

/-- Every register's address is mapped. -/
theorem mapped_addr (r : Reg) : Mapped r.addr.toNat := by
  cases r with
  | h k =>
    have hk : k.val < 64 := k.isLt
    rw [addr_h_toNat]
    omega
  | _ => decide

/-- The read-only registers are those at the read-only addresses. -/
theorem access_ro_iff (r : Reg) : r.access = .ro ↔ ReadOnly r.addr.toNat := by
  cases r with
  | h k =>
    rw [addr_h_toNat]
    simp only [Reg.access, reduceCtorEq, false_iff]
    omega
  | _ => decide

/-- An unmapped address names no register. -/
theorem regAt_eq_none_of_not_mapped {a : Addr} (h : ¬ Mapped a.toNat) : regAt a = none := by
  rw [Option.eq_none_iff_forall_ne_some]
  intro r hr
  exact h (addr_of_regAt hr ▸ mapped_addr r)

/-! ### READ (20_memory.md R66, 40_control.md R121) -/

theorem exec_read_of_some {a : Addr} {r : Reg} (h : regAt a = some r) (s : State) :
    exec (.read a) s = .next { s with result := .response (readReg r s) } := by
  simp [exec, execRead, memRead, h, answer]

theorem exec_read_of_none {a : Addr} (h : regAt a = none) (s : State) :
    exec (.read a) s = .next { s with badAccess := true, result := .response 0#32 } := by
  simp [exec, execRead, memRead, h, answer, raise]

/-- Settles O11: the two answers of the register bus; CTRL, at address 0, is a register that reads as 0. -/
theorem readAnswersTheRegister : Obligations.ReadAnswersTheRegister := by
  intro a s
  refine ⟨fun r hr => exec_read_of_some hr s, ?_, fun h => exec_read_of_none (regAt_eq_none_of_not_mapped h) s⟩
  rintro rfl
  exact exec_read_of_some regAt_zero s

/-! ### WRITE (20_memory.md R67, 40_control.md R120, R122) -/

theorem exec_write (a : Addr) (v : Word) (s : State) : exec (.write a v) s = .next (memWrite a v s) := rfl

/-- A RW register stores the data in the programmed configuration alone. -/
theorem memWrite_of_rw {a : Addr} {r : Reg} (h : regAt a = some r) (hr : r.access = .rw) (v : Word) (s : State) :
    memWrite a v s = { s with cfg := storeCfg r v s.cfg } := by
  simp [memWrite, h, hr]

/-- Where no register can be written, the event is raised: the two storing cases name a mapped register that is not
read-only. -/
theorem memWrite_of_not_writable {a : Addr} (h : ¬ Mapped a.toNat ∨ ReadOnly a.toNat) (v : Word) (s : State) :
    memWrite a v s = raise .badAccess s := by
  have ro_of_some {r : Reg} (hr : regAt a = some r) : r.access = .ro := by
    obtain rfl := addr_of_regAt hr
    exact (access_ro_iff r).2 (h.resolve_left (not_not_intro (mapped_addr r)))
  rcases memWrite_cases a v s with ⟨-, e⟩ | ⟨r, -, -, e⟩ | ⟨r, hr, hrw, -⟩ | ⟨r, hr, hwo, -⟩
  · exact e
  · exact e
  · cases hrw.symm.trans (ro_of_some hr)
  · cases hwo.symm.trans (ro_of_some hr)

theorem memWrite_zero (v : Word) (s : State) : memWrite 0#12 v s = ctrlWrite v s := by
  simp [memWrite, regAt_zero, Reg.access]

/-- The transaction that a CTRL word decodes to performs the CTRL command of the word. -/
theorem exec_decodeCtrl (v : Word) (s : State) : exec (decodeCtrl v) s = .next (ctrlWrite v s) := by
  unfold decodeCtrl ctrlWrite ctrlCommand
  split_ifs <;> rfl

/-- Settles O13: `memWrite` at a RW register, at an address that cannot be written, and at CTRL. -/
theorem writeStoresOrRaises : Obligations.WriteStoresOrRaises := by
  intro a v s
  refine ⟨fun r hr hrw => ?_, fun h => ?_, ?_⟩
  · rw [exec_write, memWrite_of_rw hr hrw]
  · rw [exec_write, memWrite_of_not_writable h, raise]
  · rintro rfl
    rw [exec_write, memWrite_zero, exec_decodeCtrl]

end Sys2Proof.Machine
end

section
/-! PROOF. The decoder on the word's number (30_encoding.md R96), and the words that a step refuses (R98). -/

namespace Sys2Proof

/-! ### The fields as quotients and remainders of the word's number (30_encoding.md R90, R92, R95) -/

theorem kindOf_toNat (t : TWord) : (kindOf t).toNat = t.toNat / 2 ^ 64 := by
  rw [kindOf, BitVec.extractLsb'_toNat, Nat.shiftRight_eq_div_pow]
  exact Nat.mod_eq_of_lt (by omega)

theorem hiOf_toNat (t : TWord) : (hiOf t).toNat = t.toNat / 2 ^ 44 % 2 ^ 20 := by
  rw [hiOf, BitVec.extractLsb'_toNat, Nat.shiftRight_eq_div_pow]

theorem addrOf_toNat (t : TWord) : (addrOf t).toNat = t.toNat / 2 ^ 32 % 2 ^ 12 := by
  rw [addrOf, BitVec.extractLsb'_toNat, Nat.shiftRight_eq_div_pow]

theorem dataOf_toNat (t : TWord) : (dataOf t).toNat = t.toNat % 2 ^ 32 := by
  rw [dataOf, BitVec.extractLsb'_toNat, Nat.shiftRight_zero]

theorem quadOf_toNat (t : TWord) : (quadOf t).toNat = t.toNat / 2 ^ 32 % 2 ^ 32 := by
  rw [quadOf, BitVec.extractLsb'_toNat, Nat.shiftRight_eq_div_pow]

theorem cmdOf_dataOf_toNat (t : TWord) : (cmdOf (dataOf t)).toNat = t.toNat % 4 := by
  rw [cmdOf, BitVec.extractLsb'_toNat, Nat.shiftRight_zero, dataOf_toNat]
  omega

theorem clrOf_dataOf (t : TWord) : clrOf (dataOf t) = decide (t.toNat / 16 % 2 = 1) := by
  rw [clrOf, BitVec.getLsbD, Nat.testBit_eq_decide_div_mod_eq, dataOf_toNat, decide_eq_decide]
  omega

theorem kindOf_eq_iff (t : TWord) (k : BitVec 8) : kindOf t = k ↔ t.toNat / 2 ^ 64 = k.toNat := by
  rw [← BitVec.toNat_inj, kindOf_toNat]

theorem hiOf_eq_zero_iff (t : TWord) : hiOf t = 0#20 ↔ t.toNat / 2 ^ 44 % 2 ^ 20 = 0 := by
  rw [← BitVec.toNat_inj, hiOf_toNat, BitVec.toNat_zero]

theorem addrOf_eq_zero_iff (t : TWord) : addrOf t = 0#12 ↔ t.toNat / 2 ^ 32 % 2 ^ 12 = 0 := by
  rw [← BitVec.toNat_inj, addrOf_toNat, BitVec.toNat_zero]

theorem dataOf_eq_zero_iff (t : TWord) : dataOf t = 0#32 ↔ t.toNat % 2 ^ 32 = 0 := by
  rw [← BitVec.toNat_inj, dataOf_toNat, BitVec.toNat_zero]

theorem cmdOf_dataOf_eq_iff (t : TWord) (c : BitVec 2) : cmdOf (dataOf t) = c ↔ t.toNat % 4 = c.toNat := by
  rw [← BitVec.toNat_inj, cmdOf_dataOf_toNat]

/-! ### The decoder, one KIND at a time (30_encoding.md R96) -/

theorem decode_sample {t : TWord} (h : kindOf t = 0x01#8) : decode t = .ok (.sample (dataOf t) (quadOf t)) := by
  simp [decode, h]

theorem decode_write {t : TWord} (h : kindOf t = 0x02#8) :
    (decode t).toOption =
      if hiOf t ≠ 0#20 then none
      else if addrOf t = 0#12 then some (decodeCtrl (dataOf t))
      else some (.write (addrOf t) (dataOf t)) := by
  by_cases hh : hiOf t = 0#20
  · by_cases ha : addrOf t = 0#12 <;> simp [decode, h, hh, ha, Except.toOption]
  · simp [decode, h, hh, Except.toOption]

theorem decode_read {t : TWord} (h : kindOf t = 0x03#8) :
    (decode t).toOption = if hiOf t ≠ 0#20 ∨ dataOf t ≠ 0#32 then none else some (.read (addrOf t)) := by
  by_cases hh : hiOf t = 0#20
  · by_cases hd : dataOf t = 0#32 <;> simp [decode, h, hh, hd, Except.toOption]
  · simp [decode, h, hh, Except.toOption]

theorem decode_badKind {t : TWord} (h1 : kindOf t ≠ 0x01#8) (h2 : kindOf t ≠ 0x02#8) (h3 : kindOf t ≠ 0x03#8) :
    decode t = .error .badKind := by
  simp [decode, h1, h2, h3]

/-- The CTRL command in a word's data, with CMD and CLR read as numbers (30_encoding.md R95). -/
theorem decodeCtrl_dataOf (t : TWord) :
    decodeCtrl (dataOf t) =
      if t.toNat % 4 = 0 then .ctrlNone (decide (t.toNat / 16 % 2 = 1))
      else if t.toNat % 4 = 1 then .ctrlStart (decide (t.toNat / 16 % 2 = 1))
      else if t.toNat % 4 = 2 then .ctrlStop (decide (t.toNat / 16 % 2 = 1))
      else .ctrlRsvd (decide (t.toNat / 16 % 2 = 1)) := by
  simp only [decodeCtrl, clrOf_dataOf, cmdOf_dataOf_eq_iff, BitVec.toNat_ofNat]

theorem addrOf_eq_ofNat (t : TWord) : addrOf t = BitVec.ofNat 12 (t.toNat / 2 ^ 32 % 2 ^ 12) := by
  rw [← addrOf_toNat, BitVec.ofNat_toNat, BitVec.setWidth_eq]

theorem dataOf_eq_ofNat (t : TWord) : dataOf t = BitVec.ofNat 32 (t.toNat % 2 ^ 32) := by
  rw [← dataOf_toNat, BitVec.ofNat_toNat, BitVec.setWidth_eq]

theorem quadOf_eq_ofNat (t : TWord) : quadOf t = BitVec.ofNat 32 (t.toNat / 2 ^ 32 % 2 ^ 32) := by
  rw [← quadOf_toNat, BitVec.ofNat_toNat, BitVec.setWidth_eq]

/-- Settles O2: one case for each KIND, by the decoder's equation there, with the fields read as numbers. -/
theorem decodingFollowsTheFieldRules : Obligations.DecodingFollowsTheFieldRules := by
  intro t
  by_cases h1 : kindOf t = 0x01#8
  · have n1 : t.toNat / 2 ^ 64 = 1 := (kindOf_eq_iff t _).1 h1
    rw [decode_sample h1, if_pos n1, ← dataOf_eq_ofNat, ← quadOf_eq_ofNat, Except.toOption]
  have n1 : t.toNat / 2 ^ 64 ≠ 1 := mt (kindOf_eq_iff t 1#8).2 h1
  rw [if_neg n1]
  by_cases h2 : kindOf t = 0x02#8
  · have n2 : t.toNat / 2 ^ 64 = 2 := (kindOf_eq_iff t _).1 h2
    rw [decode_write h2, if_pos n2, ← dataOf_eq_ofNat, ← addrOf_eq_ofNat, decodeCtrl_dataOf]
    simp only [ne_eq, hiOf_eq_zero_iff, addrOf_eq_zero_iff, apply_ite some]
  have n2 : t.toNat / 2 ^ 64 ≠ 2 := mt (kindOf_eq_iff t 2#8).2 h2
  rw [if_neg n2]
  by_cases h3 : kindOf t = 0x03#8
  · have n3 : t.toNat / 2 ^ 64 = 3 := (kindOf_eq_iff t _).1 h3
    rw [decode_read h3, if_pos n3, ← addrOf_eq_ofNat]
    simp only [ne_eq, hiOf_eq_zero_iff, dataOf_eq_zero_iff]
  have n3 : t.toNat / 2 ^ 64 ≠ 3 := mt (kindOf_eq_iff t 3#8).2 h3
  rw [decode_badKind h1 h2 h3, if_neg n3, Except.toOption]

/-- The words that name no transaction, by field (30_encoding.md R98). -/
theorem decode_toOption_eq_none_iff (t : TWord) :
    (decode t).toOption = none ↔
      (kindOf t ≠ 0x01#8 ∧ kindOf t ≠ 0x02#8 ∧ kindOf t ≠ 0x03#8) ∨
      (kindOf t = 0x02#8 ∧ hiOf t ≠ 0#20) ∨
      (kindOf t = 0x03#8 ∧ (hiOf t ≠ 0#20 ∨ dataOf t ≠ 0#32)) := by
  by_cases h1 : kindOf t = 0x01#8
  · simp [decode_sample h1, h1, Except.toOption]
  by_cases h2 : kindOf t = 0x02#8
  · rw [decode_write h2]
    by_cases ha : addrOf t = 0#12 <;> simp [h2, ha]
  by_cases h3 : kindOf t = 0x03#8
  · simp [decode_read h3, h3, imp_iff_not_or]
  · simp [decode_badKind h1 h2 h3, h1, h2, h3, Except.toOption]

end Sys2Proof

namespace Sys2Proof.Machine

/-- Every transaction has a meaning (00_scope.md R18): it is performed, without fault or refusal. -/
theorem exec_eq_next (i : Instr) (s : State) : ∃ u, exec i s = .next u := by
  cases i with
  | sample re im =>
    cases hr : s.run with
    | true => exact ⟨_, execSample_running re im hr⟩
    | false => exact ⟨_, execSample_stopped re im hr⟩
  | write addr data => exact ⟨_, rfl⟩
  | read addr => exact ⟨_, rfl⟩
  | ctrlNone clr => exact ⟨_, rfl⟩
  | ctrlStart clr => exact ⟨_, rfl⟩
  | ctrlStop clr => exact ⟨_, rfl⟩
  | ctrlRsvd clr => exact ⟨_, rfl⟩

/-- A presented word is refused by the decoder alone. -/
theorem step_refused_iff {s : State} {t : TWord} {rest : List Input} (h : s.inbox = .word t :: rest) :
    (∃ why, step s = .refused why) ↔ (decode t).toOption = none := by
  cases hd : decode t with
  | error why => simp [step, h, hd, Except.toOption]
  | ok i =>
    obtain ⟨u, hu⟩ := exec_eq_next i (takeWord rest s)
    simp [step, h, hd, hu, Except.toOption]

/-- Settles O5: a presented word is refused where the decoder answers no transaction, and the fields that make it so
are read as numbers. -/
theorem exactlyTheInvalidWordsAreRefused : Obligations.ExactlyTheInvalidWordsAreRefused := by
  intro s t rest h
  rw [step_refused_iff h, decode_toOption_eq_none_iff]
  simp only [ne_eq, kindOf_eq_iff, hiOf_eq_zero_iff, dataOf_eq_zero_iff, BitVec.toNat_ofNat]

end Sys2Proof.Machine
end

section
/-! PROOF. The CTRL commands that leave the datapath alone (40_control.md R124, R131), and the code that the checks of
START answer (R127). -/

namespace Sys2Proof.Machine

open Sys2Proof.Safety

/-! ### The code of the first failing check (40_control.md R127) -/

/-- Check `k` fails, and the checks that run before it pass. -/
def FirstFails (c : CfgRegs) (k : Nat) : Prop := ¬ StartCheck c k ∧ ∀ j, 1 ≤ j → j < k → StartCheck c j

/-- At most one check is the first that fails: of two, the earlier one would have passed. -/
theorem FirstFails.unique {c : CfgRegs} {k l : Nat} (hk1 : 1 ≤ k) (hl1 : 1 ≤ l) (hk : FirstFails c k)
    (hl : FirstFails c l) : k = l := by
  obtain ⟨failK, beforeK⟩ := hk
  obtain ⟨failL, beforeL⟩ := hl
  rcases Nat.lt_trichotomy k l with hlt | heq | hgt
  · exact absurd (beforeL k hk1 hlt) failK
  · exact heq
  · exact absurd (beforeK l hl1 hgt) failL

/-- A code other than 0 is the number of the first check that fails. -/
theorem firstFails_of_validate_ne_zero {c : CfgRegs} (h : validate c ≠ 0#4) :
    ∃ k, 1 ≤ k ∧ k ≤ 14 ∧ validate c = BitVec.ofNat 4 k ∧ FirstFails c k := by
  unfold validate at h ⊢
  split at h
  · next check hfind =>
    obtain ⟨hfail, i, hi, rfl, hbefore⟩ := List.find?_eq_some_iff_getElem.1 hfind
    refine ⟨i + 1, by omega, hi, startChecks_code c i hi, fun hpass => ?_, fun j hj1 hj => ?_⟩
    · rw [(startChecks_pass c i hi).2 hpass] at hfail
      cases hfail
    · obtain ⟨m, rfl⟩ := Nat.exists_eq_add_of_le' hj1
      have hm : m < i := by omega
      exact (startChecks_pass c m (hm.trans hi)).1 (by simpa using hbefore m hm)
  · exact absurd rfl h

/-- The code is 0 exactly when every check passes: any other code names a failing one. -/
theorem validate_eq_zero_iff (c : CfgRegs) :
    validate c = 0#4 ↔ ∀ k, 1 ≤ k → k ≤ 14 → StartCheck c k := by
  refine ⟨startCheck_of_valid, fun hall => ?_⟩
  by_contra h
  obtain ⟨k, h1, h14, -, hfail, -⟩ := firstFails_of_validate_ne_zero h
  exact hfail (hall k h1 h14)

/-- The codes 1 to 14 are told apart by the four bits of CFG_CODE, so a code names its check. -/
theorem validate_eq_code_iff (c : CfgRegs) {k : Nat} (h1 : 1 ≤ k) (h14 : k ≤ 14) :
    validate c = BitVec.ofNat 4 k ↔ FirstFails c k := by
  constructor
  · intro hk
    have hne : validate c ≠ 0#4 := by
      rw [hk]
      bv_omega
    obtain ⟨l, -, hl14, hl, hfirst⟩ := firstFails_of_validate_ne_zero hne
    have hkl : k = l := by
      have := hk.symm.trans hl
      bv_omega
    exact hkl ▸ hfirst
  · intro hfirst
    have hne : validate c ≠ 0#4 := fun h => hfirst.1 (startCheck_of_valid h k h1 h14)
    obtain ⟨l, hl1, -, hl, hfirst'⟩ := firstFails_of_validate_ne_zero hne
    rw [hl, hfirst.unique h1 hl1 hfirst']

/-- Settles O21: each code by its own equivalence, from the one fact that a code other than 0 names the first check that
fails. -/
theorem validateGivesTheFirstFailingCheck : Obligations.ValidateGivesTheFirstFailingCheck := fun c =>
  ⟨validate_eq_zero_iff c, fun _ h1 h14 => validate_eq_code_iff c h1 h14, validate_ne_reserved c⟩

/-! ### The commands that start and stop nothing (40_control.md R124, R131) -/

theorem exec_ctrlNone (clr : Bool) (s : State) : exec (.ctrlNone clr) s = .next (clearIf clr s) := rfl

/-- CLR acts before the event is raised (60_exceptions.md R254). -/
theorem exec_ctrlRsvd (clr : Bool) (s : State) : exec (.ctrlRsvd clr) s = .next (raise .badCmd (clearIf clr s)) := rfl

/-- Settles O16: the command is `clearIf` alone, which clears the sticky bits or is the identity. -/
theorem ctrlNoneClearsOrDoesNothing : Obligations.CtrlNoneClearsOrDoesNothing := by
  intro s
  constructor
  · rw [exec_ctrlNone, clearIf_true, clearSticky]
  · rw [exec_ctrlNone, clearIf_false]

/-- Settles O17: BAD_CMD is raised on the state that `clearIf` leaves, so it stays set under CLR = 1 too. -/
theorem ctrlRsvdRaisesBadCmd : Obligations.CtrlRsvdRaisesBadCmd := by
  intro s
  constructor
  · rw [exec_ctrlRsvd, clearIf_false, raise]
  · rw [exec_ctrlRsvd, clearIf_true, raise, clearSticky]

end Sys2Proof.Machine
end

section
/-! PROOF. The delay lines over an accepted SAMPLE (41_demodulator.md R162 to R166). -/

namespace Sys2Proof.Machine

open Sys2Proof.Safety

/-- An accepted SAMPLE counts down, then may strobe, then advances the phase (41_demodulator.md R160). -/
theorem acceptSample_cases (x : Cplx) (s : State) :
    acceptSample x s = advanceNco (countedDown x s) ∨
      acceptSample x s = advanceNco (strobe (countedDown x s)) := by
  by_cases h : IsStrobe s
  · exact .inr (acceptSample_strobe h)
  · exact .inl (acceptSample_between h)

@[simp] theorem countedDown_nfIn (x : Cplx) (s : State) : (countedDown x s).nfIn = (s.nfIn || !finiteC x) := rfl

@[simp] theorem countedDown_nfMf (x : Cplx) (s : State) :
    (countedDown x s).nfMf = (s.nfMf || !finiteC (matchedFilter s.act (shiftIn s.xl (fin0C x)))) := rfl

/-! The strobe and the phase leave these four fields as the counted-down state has them. -/

@[simp] theorem acceptSample_xl (x : Cplx) (s : State) : (acceptSample x s).xl = shiftIn s.xl (fin0C x) := by
  rcases acceptSample_cases x s with h | h <;> simp [h]

@[simp] theorem acceptSample_dl (x : Cplx) (s : State) :
    (acceptSample x s).dl = shiftIn s.dl (fin0C (matchedFilter s.act (acceptSample x s).xl)) := by
  rw [acceptSample_xl]
  rcases acceptSample_cases x s with h | h <;> simp [h]

@[simp] theorem acceptSample_nfIn (x : Cplx) (s : State) :
    (acceptSample x s).nfIn = (s.nfIn || !finiteC x) := by
  rcases acceptSample_cases x s with h | h <;> simp [h]

@[simp] theorem acceptSample_nfMf (x : Cplx) (s : State) :
    (acceptSample x s).nfMf = (s.nfMf || !finiteC (matchedFilter s.act (acceptSample x s).xl)) := by
  rw [acceptSample_xl]
  rcases acceptSample_cases x s with h | h <;> simp [h]

/-- A SAMPLE while running is accepted, and has one next state (41_demodulator.md R160). -/
theorem eq_acceptSample_of_exec {s t : State} {i q : F32} (hr : s.run = true) (h : exec (.sample i q) s = .next t) :
    t = acceptSample ⟨i, q⟩ s := by
  have hnext : exec (.sample i q) s = .next (acceptSample ⟨i, q⟩ s) := execSample_running i q hr
  exact Host.Outcome.next.inj (h.symm.trans hnext)

/-- Settles O35: strobe or not, both lines and both sticky bits are those of the counted-down state, where each line is
one `shiftIn`. -/
theorem sampleShiftsBothDelayLines : Obligations.SampleShiftsBothDelayLines := by
  intro s t i q hr h
  obtain rfl := eq_acceptSample_of_exec hr h
  refine ⟨?_, fun k hk => ?_, ?_, fun k hk => ?_, acceptSample_nfIn _ s, acceptSample_nfMf _ s⟩
  · simp only [acceptSample_xl, shiftIn_zero, fin0C]
  · simp only [acceptSample_xl, shiftIn_succ]
  · simp only [acceptSample_dl, shiftIn_zero, fin0C]
  · simp only [acceptSample_dl, shiftIn_succ]

end Sys2Proof.Machine
end

section
/-! PROOF. The symbol extractor (42_symbol_extractor.md R200 to R208): the decided byte, the correlation window, the dual
correlation, and the lock state machine at an evaluated window. -/

namespace Sys2Proof.Machine

/-! ### The decided byte (42_symbol_extractor.md R200, R201) -/

/-- The exclusive or of two bits as a byte: 0x00 where they agree. -/
theorem outByte_eq (braw pol : Bool) : outByte braw pol = if braw = pol then 0x00#8 else 0x01#8 := by
  cases braw <;> cases pol <;> rfl

/-- Settles O45: the byte is the first event of `extract_events_cases`, written with the polarity of the state before. -/
theorem byteUsesThePolarityBeforeTheWindow : Obligations.ByteUsesThePolarityBeforeTheWindow := by
  intro neg s
  have hraw : (if neg then false else true) = !neg := by cases neg <;> rfl
  rw [hraw, ← outByte_eq]
  rcases extract_events_cases neg s with h | ⟨bytes, h⟩
  · exact ⟨[], h⟩
  · exact ⟨[.groupOut bytes], h⟩

/-! ### The window and FILL (42_symbol_extractor.md R202, R203) -/

/-- The raw bit enters at bit 0, so the shift is the library's `BitVec.shiftConcat`. -/
theorem shiftWindow_eq_shiftConcat (wreg : BitVec 64) (braw : Bool) : shiftWindow wreg braw = wreg.shiftConcat braw := by
  ext i hi
  rw [BitVec.getElem_shiftConcat]
  rcases Nat.eq_zero_or_pos i with rfl | hpos
  · simp [shiftWindow]
  · have hne : i ≠ 0 := hpos.ne'
    simp [shiftWindow, hne]

theorem shiftWindow_toNat (wreg : BitVec 64) (braw : Bool) :
    (shiftWindow wreg braw).toNat = (wreg.toNat * 2 + braw.toNat) % 2 ^ 64 := by
  rw [shiftWindow_eq_shiftConcat, BitVec.toNat_shiftConcat, Nat.shiftLeft_eq, pow_one]

/-- The state that the test for a full window sees: the raw bit has entered and FILL has counted. -/
def shifted (braw : Bool) (s : State) : State := { s with wreg := shiftWindow s.wreg braw, fill := fillUpdate s }

@[simp] theorem shifted_act (braw : Bool) (s : State) : (shifted braw s).act = s.act := rfl

@[simp] theorem shifted_wreg (braw : Bool) (s : State) : (shifted braw s).wreg = shiftWindow s.wreg braw := rfl

theorem updateWindow_of_full {braw : Bool} {s : State} (h : (fillUpdate s).toNat = s.act.regs.uwLen.toNat) :
    updateWindow braw s = evaluateWindow (shifted braw s) := if_pos h

theorem updateWindow_of_not_full {braw : Bool} {s : State} (h : (fillUpdate s).toNat ≠ s.act.regs.uwLen.toNat) :
    updateWindow braw s = shifted braw s := if_neg h

@[simp] theorem updateWindow_wreg (braw : Bool) (s : State) :
    (updateWindow braw s).wreg = shiftWindow s.wreg braw := by
  by_cases h : (fillUpdate s).toNat = s.act.regs.uwLen.toNat
  · rw [updateWindow_of_full h, evaluateWindow_wreg, shifted]
  · rw [updateWindow_of_not_full h, shifted]

@[simp] theorem updateWindow_fill (braw : Bool) (s : State) : (updateWindow braw s).fill = fillUpdate s := by
  by_cases h : (fillUpdate s).toNat = s.act.regs.uwLen.toNat
  · rw [updateWindow_of_full h, evaluateWindow_fill, shifted]
  · rw [updateWindow_of_not_full h, shifted]

/-! Presenting the byte and packing it leave the extractor's own fields as the window's update has them. -/

@[simp] theorem extract_wreg (neg : Bool) (s : State) : (extract neg s).wreg = shiftWindow s.wreg (!neg) := by
  simp [extract]

@[simp] theorem extract_fill (neg : Bool) (s : State) : (extract neg s).fill = fillUpdate s := by
  simp [extract]

theorem extract_sync (neg : Bool) (s : State) : (extract neg s).sync = (updateWindow (!neg) s).sync := by
  simp [extract]

theorem extract_pol (neg : Bool) (s : State) : (extract neg s).pol = (updateWindow (!neg) s).pol := by
  simp [extract]

theorem extract_miss (neg : Bool) (s : State) : (extract neg s).miss = (updateWindow (!neg) s).miss := by
  simp [extract]

theorem extract_stderr (neg : Bool) (s : State) : (extract neg s).stderr = (updateWindow (!neg) s).stderr := by
  simp [extract]

/-- Settles O46: the window is one `shiftConcat`, FILL is `fillUpdate`, and while the window is not full the update is
the shift alone. -/
theorem windowShiftsAndFills : Obligations.WindowShiftsAndFills := by
  intro neg s hlen
  refine ⟨?_, ?_, fun hnot => ?_⟩
  · rw [extract_wreg, shiftWindow_toNat]
    cases neg <;> rfl
  · rw [extract_fill, fillUpdate_toNat hlen]
  · rw [extract_fill] at hnot
    rw [extract_sync, extract_pol, extract_miss, extract_stderr, updateWindow_of_not_full hnot]
    exact ⟨rfl, rfl, rfl, rfl⟩

/-! ### An evaluated window (42_symbol_extractor.md R205 to R208) -/

/-- A window that reaches the threshold locks, whatever the lock flag was (R205). -/
theorem lockUpdate_of_reached {m : Match} {s : State} (h : s.act.regs.uwThresh.toNat ≤ m.best) :
    lockUpdate m s = { s with sync := true, pol := m.inverted, miss := 0#32 } := if_pos h

/-- A miss while unlocked changes nothing (R206). -/
theorem lockUpdate_of_unlocked {m : Match} {s : State} (h : ¬ s.act.regs.uwThresh.toNat ≤ m.best)
    (hs : s.sync = false) : lockUpdate m s = s := by
  rw [lockUpdate, if_neg h, hs, if_neg Bool.false_ne_true]

/-- A miss below UNLOCK_N is counted, and the lock is kept (R206). -/
theorem lockUpdate_of_counted {m : Match} {s : State} (h : ¬ s.act.regs.uwThresh.toNat ≤ m.best)
    (hs : s.sync = true) (hn : s.miss.toNat + 1 < s.act.regs.unlockN.toNat) :
    lockUpdate m s = { s with miss := BitVec.ofNat 32 (s.miss.toNat + 1) } := by
  rw [lockUpdate, if_neg h, if_pos hs, if_neg (Nat.not_le.2 hn)]

/-- The miss that makes UNLOCK_N unlocks, and the polarity is kept (R206). -/
theorem lockUpdate_of_last_miss {m : Match} {s : State} (h : ¬ s.act.regs.uwThresh.toNat ≤ m.best)
    (hs : s.sync = true) (hn : s.act.regs.unlockN.toNat ≤ s.miss.toNat + 1) :
    lockUpdate m s = { s with sync := false, miss := 0#32 } := by
  rw [lockUpdate, if_neg h, if_pos hs, if_pos hn]

/-- A count below UNLOCK_N, which is a word, does not wrap in MISS. -/
theorem miss_succ_toNat {s : State} (h : s.miss.toNat + 1 < s.act.regs.unlockN.toNat) :
    (BitVec.ofNat 32 (s.miss.toNat + 1)).toNat = s.miss.toNat + 1 :=
  Nat.mod_eq_of_lt (h.trans s.act.regs.unlockN.isLt)

/-! The estimate is smoothed after the lock state machine, which does not read it. -/

theorem evaluateWindow_sync (s : State) : (evaluateWindow s).sync = (lockUpdate (correlate s.act s.wreg) s).sync := rfl

theorem evaluateWindow_pol (s : State) : (evaluateWindow s).pol = (lockUpdate (correlate s.act s.wreg) s).pol := rfl

theorem evaluateWindow_miss (s : State) : (evaluateWindow s).miss = (lockUpdate (correlate s.act s.wreg) s).miss := rfl

theorem evaluateWindow_stderr (s : State) : (evaluateWindow s).stderr =
    smoothError s.act.regs.seK (instantError s.act (correlate s.act s.wreg)) s.stderr := by
  simp [evaluateWindow]

/-- Settles O47: a full window is evaluated on the shifted state, which has the lock flag, the polarity, the count and
the estimate of the state before; each clause is then its own case of `lockUpdate`. -/
theorem lockMachineAndErrorEstimate : Obligations.LockMachineAndErrorEstimate := by
  intro neg s _ hfull
  rw [extract_fill] at hfull
  dsimp only
  rw [extract_wreg, extract_sync, extract_pol, extract_miss, extract_stderr, updateWindow_of_full hfull,
    evaluateWindow_sync, evaluateWindow_pol, evaluateWindow_miss, evaluateWindow_stderr, shifted_act, shifted_wreg]
  refine ⟨fun h => ?_, fun h hs => ?_, fun h hs hn => ?_, fun h hs hn => ?_, rfl⟩
  · rw [lockUpdate_of_reached (s := shifted (!neg) s) h]
    exact ⟨rfl, rfl, rfl⟩
  · rw [lockUpdate_of_unlocked (s := shifted (!neg) s) h hs]
    exact ⟨hs, rfl, rfl⟩
  · rw [lockUpdate_of_counted (s := shifted (!neg) s) h hs hn]
    exact ⟨hs, rfl, miss_succ_toNat hn⟩
  · rw [lockUpdate_of_last_miss (s := shifted (!neg) s) h hs hn]
    exact ⟨rfl, rfl, rfl⟩

/-! ### The dual correlation (42_symbol_extractor.md R204) -/

/-- The mask keeps the window's UW_LEN newest bits (40_control.md R128). -/
theorem maskOf_getLsbD {uwLen : Word} (h : uwLen.toNat ≤ 64) (i : Nat) :
    (maskOf uwLen).getLsbD i = decide (i < uwLen.toNat) := by
  have hval : (maskOf uwLen).toNat = 2 ^ uwLen.toNat - 1 := by
    unfold maskOf
    split
    · next h64 => rw [h64]; rfl
    · next h64 =>
      have hlt : uwLen.toNat < 64 := by bv_omega
      have hpow : (1#64 <<< uwLen.toNat).toNat = 2 ^ uwLen.toNat := by
        rw [BitVec.toNat_shiftLeft, Nat.shiftLeft_eq, show (1#64).toNat = 1 from rfl, one_mul,
          Nat.mod_eq_of_lt (Nat.pow_lt_pow_right (by omega) hlt)]
      have hle : 1#64 ≤ 1#64 <<< uwLen.toNat := by
        rw [BitVec.le_def, hpow]
        exact Nat.two_pow_pos _
      rw [BitVec.toNat_sub_of_le hle, hpow, show (1#64).toNat = 1 from rfl]
  rw [← BitVec.testBit_toNat, hval, Nat.testBit_two_pow_sub_one]

/-- Counting below `n` is counting below a larger bound with everything from `n` on left out. -/
theorem countP_range_and_lt {n m : Nat} (p : Nat → Bool) (h : n ≤ m) :
    (List.range m).countP (fun i => p i && decide (i < n)) = (List.range n).countP p := by
  obtain ⟨k, rfl⟩ := Nat.exists_eq_add_of_le h
  rw [List.range_add, List.countP_append]
  have hlow : (List.range n).countP (fun i => p i && decide (i < n)) = (List.range n).countP p :=
    List.countP_congr fun i hi => by simp [List.mem_range.1 hi]
  have hhigh : ((List.range k).map (n + ·)).countP (fun i => p i && decide (i < n)) = 0 :=
    List.countP_eq_zero.2 fun i hi => by
      obtain ⟨j, -, rfl⟩ := List.mem_map.1 hi
      simp
  rw [hlow, hhigh, Nat.add_zero]

/-- `dist` counts the places below UW_LEN where the window and the pattern differ. -/
theorem distance_eq_countP {a : Active} (hmask : a.maskN = maskOf a.regs.uwLen) (h : a.regs.uwLen.toNat ≤ 64)
    (w : BitVec 64) :
    distance a w = (List.range a.regs.uwLen.toNat).countP fun j => w.getLsbD j != a.regs.uwPat.getLsbD j := by
  rw [← countP_range_and_lt _ h, distance, popcount, hmask]
  refine List.countP_congr fun i _ => ?_
  rw [BitVec.getLsbD_and, BitVec.getLsbD_xor, maskOf_getLsbD h]

theorem distance_le {a : Active} (hmask : a.maskN = maskOf a.regs.uwLen) (h : a.regs.uwLen.toNat ≤ 64)
    (w : BitVec 64) : distance a w ≤ a.regs.uwLen.toNat := by
  rw [distance_eq_countP hmask h]
  simpa using List.countP_le_length (l := List.range a.regs.uwLen.toNat)

/-- Every place below UW_LEN differs from the pattern either in the window or in its complement. -/
theorem distance_add_distance_not {a : Active} (hmask : a.maskN = maskOf a.regs.uwLen) (h : a.regs.uwLen.toNat ≤ 64)
    (w : BitVec 64) : distance a w + distance a (~~~ w) = a.regs.uwLen.toNat := by
  have hcompl : distance a (~~~ w) = (List.range a.regs.uwLen.toNat).countP
      fun j => decide ¬ (w.getLsbD j != a.regs.uwPat.getLsbD j) = true := by
    rw [distance_eq_countP hmask h]
    refine List.countP_congr fun j hj => ?_
    have hj64 : j < 64 := (List.mem_range.1 hj).trans_le h
    rw [BitVec.getLsbD_not, decide_eq_true hj64, Bool.true_and]
    cases w.getLsbD j <;> cases a.regs.uwPat.getLsbD j <;> decide
  rw [hcompl, distance_eq_countP hmask h, ← List.length_eq_countP_add_countP, List.length_range]

theorem betterMatch_best (n dist : Nat) : (betterMatch n dist).best = max (n - dist) dist := by
  unfold betterMatch
  split
  · next h => exact (max_eq_left h).symm
  · next h => exact (max_eq_right (Nat.le_of_not_le h)).symm

/-- A tie is the normal polarity. -/
theorem betterMatch_inverted_iff (n dist : Nat) : (betterMatch n dist).inverted = true ↔ n - dist < dist := by
  unfold betterMatch
  split
  · next h => simpa using h
  · next h => simpa using h

/-- Settles O48: a valid configuration has UW_LEN in 1 to 64 and its own mask, so `dist` is a count over the pattern's
places and the complement counts the rest. -/
theorem dualCorrelation : Obligations.DualCorrelation := by
  intro c w hvalid
  obtain ⟨-, hlen, -⟩ := startCheck_of_valid hvalid 10 (by omega) (by omega)
  dsimp only
  have hmask : (latchActive c).maskN = maskOf (latchActive c).regs.uwLen := rfl
  have hle : distance (latchActive c) w ≤ c.uwLen.toNat := distance_le hmask hlen w
  have hsum : distance (latchActive c) w + distance (latchActive c) (~~~ w) = c.uwLen.toNat :=
    distance_add_distance_not hmask hlen w
  have hbest : (correlate (latchActive c) w).best =
      max (c.uwLen.toNat - distance (latchActive c) w) (distance (latchActive c) w) := betterMatch_best _ _
  refine ⟨distance_eq_countP hmask hlen w, hle, by omega, hbest, betterMatch_inverted_iff _ _, ?_, ?_⟩
  · omega
  · omega

end Sys2Proof.Machine
end

section
/-! PROOF. Encoder, decoder and opcode table (30_encoding.md R92 to R101): each undoes the other but for the ignored bits of
a CTRL word, and the decoder names the table's row. -/

namespace Sys2Proof

/-! ### The decoder on assembled words (30_encoding.md R93 to R95) -/

theorem decode_assembleWord_ctrl (d : Word) : decode (assembleWord 0x02#8 0#20 0#12 d) = .ok (decodeCtrl d) := by
  simp [decode]

theorem decode_assembleWord_write {a : Addr} (ha : a ≠ 0#12) (d : Word) :
    decode (assembleWord 0x02#8 0#20 a d) = .ok (.write a d) := by
  simp [decode, ha]

theorem decode_assembleWord_read (a : Addr) : decode (assembleWord 0x03#8 0#20 a 0#32) = .ok (.read a) := by
  simp [decode]

/-- Settles O1: the decoder reads the fields that the encoder of each row assembles. -/
theorem decodeOfEncodeIsIdentity : Obligations.DecodeOfEncodeIsIdentity := by
  intro i hwf
  cases i with
  | sample re im => rw [decode_sample (kindOf_sample re im), dataOf_sample, quadOf_sample]
  | write addr data => exact decode_assembleWord_write (by simpa [Instr.wf] using hwf) data
  | read addr => exact decode_assembleWord_read addr
  | ctrlNone clr => rw [encode, decode_assembleWord_ctrl]; simp [decodeCtrl]
  | ctrlStart clr => rw [encode, decode_assembleWord_ctrl]; simp [decodeCtrl]
  | ctrlStop clr => rw [encode, decode_assembleWord_ctrl]; simp [decodeCtrl]
  | ctrlRsvd clr => rw [encode, decode_assembleWord_ctrl]; simp [decodeCtrl]

/-! ### Everything the decoder can answer -/

/-- The four ways a word names a transaction (30_encoding.md R96). -/
theorem decode_ok_cases {t : TWord} {i : Instr} (h : decode t = .ok i) :
    (kindOf t = 0x01#8 ∧ i = .sample (dataOf t) (quadOf t)) ∨
    (kindOf t = 0x02#8 ∧ hiOf t = 0#20 ∧ addrOf t = 0#12 ∧ i = decodeCtrl (dataOf t)) ∨
    (kindOf t = 0x02#8 ∧ hiOf t = 0#20 ∧ addrOf t ≠ 0#12 ∧ i = .write (addrOf t) (dataOf t)) ∨
    (kindOf t = 0x03#8 ∧ hiOf t = 0#20 ∧ dataOf t = 0#32 ∧ i = .read (addrOf t)) := by
  unfold decode at h
  split_ifs at h with h1 h2 hhi haddr h3 hhi hdata
  · exact .inl ⟨h1, (Except.ok.inj h).symm⟩
  · exact .inr (.inl ⟨h2, not_not.1 hhi, haddr, (Except.ok.inj h).symm⟩)
  · exact .inr (.inr (.inl ⟨h2, not_not.1 hhi, haddr, (Except.ok.inj h).symm⟩))
  · exact .inr (.inr (.inr ⟨h3, not_not.1 hhi, not_not.1 hdata, (Except.ok.inj h).symm⟩))

/-! ### Encoding what was decoded (30_encoding.md R97, R99) -/

theorem wf_decodeCtrl (d : Word) : (decodeCtrl d).wf = true := by
  unfold decodeCtrl
  split_ifs <;> rfl

/-- The encoder writes a CTRL command with the ignored bits as zero. -/
theorem encode_decodeCtrl (d : Word) :
    encode (decodeCtrl d) = assembleWord 0x02#8 0#20 0#12 (ctrlData (cmdOf d) (clrOf d)) := by
  rcases cmd_cases (cmdOf d) with h | h | h | h <;> simp [decodeCtrl, h, encode]

/-- Bits 1:0 and 4 are the ones CTRL reads (30_encoding.md R95). -/
theorem ctrlData_fields (d : Word) : ctrlData (cmdOf d) (clrOf d) = d &&& 0x13#32 := by
  apply BitVec.eq_of_getLsbD_eq
  intro j hj
  simp only [ctrlData, cmdOf, clrOf, BitVec.getLsbD_append, BitVec.getLsbD_extractLsb', BitVec.getLsbD_and]
  interval_cases j <;> simp

theorem kindOf_and (t m : TWord) : kindOf (t &&& m) = kindOf t &&& kindOf m := BitVec.extractLsb'_and

theorem hiOf_and (t m : TWord) : hiOf (t &&& m) = hiOf t &&& hiOf m := BitVec.extractLsb'_and

theorem addrOf_and (t m : TWord) : addrOf (t &&& m) = addrOf t &&& addrOf m := BitVec.extractLsb'_and

theorem dataOf_and (t m : TWord) : dataOf (t &&& m) = dataOf t &&& dataOf m := BitVec.extractLsb'_and

/-- A SAMPLE word carries the two operands and its KIND, nothing else (30_encoding.md R92). -/
theorem encode_sample_fields {t : TWord} (h : kindOf t = 0x01#8) : encode (.sample (dataOf t) (quadOf t)) = t := by
  apply BitVec.eq_of_toNat_eq
  rw [kindOf_eq_iff] at h
  rw [encode, BitVec.toNat_append, BitVec.toNat_append, dataOf_toNat, quadOf_toNat]
  rw [← Nat.shiftLeft_add_eq_or_of_lt (by omega), ← Nat.shiftLeft_add_eq_or_of_lt (by omega)]
  simp only [Nat.shiftLeft_eq, BitVec.toNat_ofNat] at h ⊢
  omega

/-- Settles O4: a word is the assembly of its fields, so the encoder rebuilds it; in a CTRL word it rebuilds the bits that
CTRL reads. -/
theorem encodeOfDecodeDropsOnlyIgnoredBits : Obligations.EncodeOfDecodeDropsOnlyIgnoredBits := by
  intro t i h
  rcases decode_ok_cases h with ⟨hk, rfl⟩ | ⟨hk, hhi, ha, rfl⟩ | ⟨hk, hhi, ha, rfl⟩ | ⟨hk, hhi, hd, rfl⟩
  · exact ⟨rfl, fun hc => absurd (hk.symm.trans hc.1) (by decide), fun _ => encode_sample_fields hk⟩
  · refine ⟨wf_decodeCtrl _, fun _ => ?_, fun hc => absurd ⟨hk, ha⟩ hc⟩
    rw [encode_decodeCtrl, ctrlData_fields, ← assembleWord_fields (t &&& _), kindOf_and, hiOf_and, addrOf_and, dataOf_and,
      hk, hhi, ha]
    congr 1
  · refine ⟨by simpa [Instr.wf] using ha, fun hc => absurd hc.2 ha, fun _ => ?_⟩
    rw [encode, ← hk, ← hhi, assembleWord_fields]
  · refine ⟨rfl, fun hc => absurd (hk.symm.trans hc.1) (by decide), fun _ => ?_⟩
    rw [encode, ← hk, ← hhi, ← hd, assembleWord_fields]

/-! ### The opcode table (30_encoding.md R96, R100) -/

/-- CMD is the data under the table's CTRL mask. -/
theorem dataOf_and_three_eq_iff (d : Word) (c : BitVec 2) : d &&& 3#32 = c.setWidth 32 ↔ cmdOf d = c := by
  rw [← BitVec.toNat_inj, ← BitVec.toNat_inj, cmdOf, BitVec.extractLsb'_toNat, BitVec.toNat_and, BitVec.toNat_setWidth,
    BitVec.toNat_ofNat, Nat.mod_eq_of_lt (by omega : 3 < 2 ^ 32), Nat.mod_eq_of_lt (by omega : c.toNat < 2 ^ 32),
    Nat.and_two_pow_sub_one_eq_mod d.toNat 2, Nat.shiftRight_zero]

theorem and_eq_self_of_allOnes {w : Nat} {m : BitVec w} (h : m = BitVec.allOnes w) (x : BitVec w) : x &&& m = x := by
  rw [h, BitVec.and_allOnes]

/-- A row that masks nothing but KIND. -/
theorem covers_sample_iff (t : TWord) : opcodeRows[0].covers t = true ↔ kindOf t = 0x01#8 := by
  rw [covers_iff_fields, and_eq_self_of_allOnes (by decide), show hiOf opcodeRows[0].mask = 0#20 by decide,
    show addrOf opcodeRows[0].mask = 0#12 by decide, show dataOf opcodeRows[0].mask = 0#32 by decide,
    BitVec.and_zero, BitVec.and_zero, BitVec.and_zero]
  exact and_iff_left ⟨by decide, by decide, by decide⟩

/-- The four CTRL rows: KIND, HI and ADDR whole, and the two bits of CMD. -/
theorem covers_ctrl_iff {name : String} {pattern : TWord} (c : BitVec 2)
    (hp : pattern = assembleWord 0x02#8 0#20 0#12 (c.setWidth 32)) (t : TWord) :
    OpcodeRow.covers ⟨name, pattern, 0xFFFFFFFFFF00000003#72⟩ t = true ↔
      kindOf t = 0x02#8 ∧ hiOf t = 0#20 ∧ addrOf t = 0#12 ∧ cmdOf (dataOf t) = c := by
  rw [covers_iff_fields]
  dsimp only
  rw [and_eq_self_of_allOnes (by decide), and_eq_self_of_allOnes (by decide), and_eq_self_of_allOnes (by decide),
    show dataOf 0xFFFFFFFFFF00000003#72 = 3#32 by decide, hp, kindOf_assembleWord, hiOf_assembleWord, addrOf_assembleWord,
    dataOf_assembleWord, dataOf_and_three_eq_iff]

theorem covers_write_iff (t : TWord) : opcodeRows[5].covers t = true ↔ kindOf t = 0x02#8 ∧ hiOf t = 0#20 := by
  rw [covers_iff_fields, and_eq_self_of_allOnes (by decide), and_eq_self_of_allOnes (by decide),
    show addrOf opcodeRows[5].mask = 0#12 by decide, show dataOf opcodeRows[5].mask = 0#32 by decide,
    BitVec.and_zero, BitVec.and_zero]
  exact and_congr_right fun _ => and_iff_left ⟨by decide, by decide⟩

theorem covers_read_iff (t : TWord) :
    opcodeRows[6].covers t = true ↔ kindOf t = 0x03#8 ∧ hiOf t = 0#20 ∧ dataOf t = 0#32 := by
  rw [covers_iff_fields, and_eq_self_of_allOnes (by decide), and_eq_self_of_allOnes (by decide),
    show addrOf opcodeRows[6].mask = 0#12 by decide, and_eq_self_of_allOnes (x := dataOf t) (by decide), BitVec.and_zero]
  exact and_congr_right fun _ => and_congr_right fun _ => and_iff_right (by decide)

theorem find?_cons_eq_ite {α : Type} (p : α → Bool) (a : α) (l : List α) :
    (a :: l).find? p = if p a = true then some a else l.find? p := by
  cases h : p a <;> simp [h]

/-- The table's name for a word, on its fields: the first row that covers it. -/
theorem tableMnemonic_eq (t : TWord) :
    tableMnemonic t =
      if kindOf t = 0x01#8 then some "SAMPLE"
      else if kindOf t = 0x02#8 ∧ hiOf t = 0#20 ∧ addrOf t = 0#12 then
        some (if cmdOf (dataOf t) = 0#2 then "CTRL_NONE" else if cmdOf (dataOf t) = 1#2 then "CTRL_START"
          else if cmdOf (dataOf t) = 2#2 then "CTRL_STOP" else "CTRL_RSVD")
      else if kindOf t = 0x02#8 ∧ hiOf t = 0#20 then some "WRITE"
      else if kindOf t = 0x03#8 ∧ hiOf t = 0#20 ∧ dataOf t = 0#32 then some "READ"
      else none := by
  have c0 := covers_sample_iff t
  have c1 := covers_ctrl_iff (name := "CTRL_NONE") (pattern := 0x020000000000000000#72) 0#2 (by decide) t
  have c2 := covers_ctrl_iff (name := "CTRL_START") (pattern := 0x020000000000000001#72) 1#2 (by decide) t
  have c3 := covers_ctrl_iff (name := "CTRL_STOP") (pattern := 0x020000000000000002#72) 2#2 (by decide) t
  have c4 := covers_ctrl_iff (name := "CTRL_RSVD") (pattern := 0x020000000000000003#72) 3#2 (by decide) t
  have c5 := covers_write_iff t
  have c6 := covers_read_iff t
  simp only [opcodeRows, List.cons_append, List.nil_append, List.getElem_cons_zero, List.getElem_cons_succ] at c0 c5 c6
  simp only [tableMnemonic, opcodeRows, List.cons_append, List.nil_append, find?_cons_eq_ite, c0, c1, c2, c3, c4, c5, c6]
  by_cases hc : kindOf t = 0x02#8 ∧ hiOf t = 0#20 ∧ addrOf t = 0#12
  · obtain ⟨hk, hh, ha⟩ := hc
    rcases cmd_cases (cmdOf (dataOf t)) with h | h | h | h <;> simp [hk, hh, ha, h]
  · have hrow : ∀ c : BitVec 2, ¬ (kindOf t = 0x02#8 ∧ hiOf t = 0#20 ∧ addrOf t = 0#12 ∧ cmdOf (dataOf t) = c) :=
      fun c ⟨hk, hh, ha, _⟩ => hc ⟨hk, hh, ha⟩
    rw [if_neg (hrow 0#2), if_neg (hrow 1#2), if_neg (hrow 2#2), if_neg (hrow 3#2), if_neg hc]
    split_ifs <;> rfl

/-- Settles O3: both sides are one case for each KIND, and within CTRL one for each CMD. -/
theorem decoderAndOpcodeTableAgree : Obligations.DecoderAndOpcodeTableAgree := by
  intro t
  rw [tableMnemonic_eq]
  by_cases h1 : kindOf t = 0x01#8
  · simp [decode_sample h1, h1, Except.toOption, Instr.mnemonic]
  by_cases h2 : kindOf t = 0x02#8
  · rw [decode_write h2]
    by_cases hh : hiOf t = 0#20
    · by_cases ha : addrOf t = 0#12
      · rcases cmd_cases (cmdOf (dataOf t)) with h | h | h | h <;> simp [h2, hh, ha, h, decodeCtrl, Instr.mnemonic]
      · simp [h2, hh, ha, Instr.mnemonic]
    · simp [h2, hh]
  by_cases h3 : kindOf t = 0x03#8
  · rw [decode_read h3]
    by_cases hh : hiOf t = 0#20
    · by_cases hd : dataOf t = 0#32 <;> simp [h3, hh, hd, Instr.mnemonic]
    · simp [h3, hh]
  · simp [decode_badKind h1 h2 h3, h1, h2, h3, Except.toOption]

/-! ### The examples of the spec -/

/-- Settles O6: each word is decoded as written out (30_encoding.md R92 to R95, R98). -/
theorem exampleWordsDecodeAsTheSpecSays : Obligations.ExampleWordsDecodeAsTheSpecSays :=
  ⟨rfl, rfl, rfl, rfl, rfl, rfl, rfl, rfl, rfl⟩

end Sys2Proof
end

section
/-! PROOF. The numbers (00_scope.md R10 to R13): what a rounded signed value is, and from it sums, products, quotients,
`Wrap`, `TRIG` and the host's gains (40_control.md R133). -/

namespace Sys2Proof.F32

open Sys2Proof.Safety

/-! ### A rounded signed value (00_scope.md R10) -/

/-- From half a step past the largest finite value on, a rounded value is the infinity of its sign. -/
theorem round_eq_infinity {neg : Bool} {num den : Nat} (hd : 0 < den) (h : (2 ^ 25 - 1) * 2 ^ 252 * den ≤ num) :
    pack neg (roundMag num den) = if signed neg num < 0 then 0xFF800000#32 else 0x7F800000#32 := by
  have hpos : 0 < num := lt_of_lt_of_le (Nat.mul_pos (by norm_num) hd) h
  rw [roundMag_eq_infMag hd h]
  cases neg with
  | false => rw [signed, if_neg (by simp)]; decide
  | true => rw [signed, if_pos (by simpa using hpos)]; decide

theorem natAbs_signed (neg : Bool) (num : Nat) : (signed neg num).natAbs = num := by
  cases neg <;> simp [signed]

/-- R10 for an operation that rounds the exact value `n / den`: nearest, ties to even, with overflow to infinity. -/
theorem round_spec {r : F32} {neg : Bool} {n : Int} {num den : Nat} (hd : 0 < den) (hn : signed neg num = n)
    (hr : r = pack neg (roundMag num den)) :
    (n.natAbs < (2 ^ 25 - 1) * 2 ^ 252 * den → NearestEven r n den) ∧
      ((2 ^ 25 - 1) * 2 ^ 252 * den ≤ n.natAbs → r = if n < 0 then 0xFF800000#32 else 0x7F800000#32) := by
  subst hn hr
  rw [natAbs_signed]
  exact ⟨nearestEven_round hd, round_eq_infinity hd⟩

/-! ### Sums, products and quotients (00_scope.md R10) -/

/-- The sum of finite numbers as one rounded value: a zero sum has a sign of its own, and the sign does not matter to the
exact value. -/
theorem add_eq_round {a b : F32} (ha : isFinite a = true) (hb : isFinite b = true) :
    ∃ neg, signed neg (units a + units b).natAbs = units a + units b ∧
      add a b = pack neg (roundMag (units a + units b).natAbs 1) := by
  rw [add_finite ha hb]
  by_cases h0 : units a + units b = 0
  · exact ⟨sign a && sign b, by simp [h0, signed], by rw [if_pos h0, h0, Int.natAbs_zero, roundMag_zero one_pos]⟩
  · exact ⟨_, signed_decide _, if_neg h0⟩

/-- Settles O52: the sum and the product are each one rounded signed value. -/
theorem sumsAndProductsRoundToNearestEven : Obligations.SumsAndProductsRoundToNearestEven := by
  intro a b ha hb
  obtain ⟨neg, hneg, hadd⟩ := add_eq_round ha hb
  obtain ⟨sumNear, sumInf⟩ := round_spec one_pos hneg hadd
  obtain ⟨mulNear, mulInf⟩ := round_spec (Nat.two_pow_pos 149) (signed_mul a b) (mul_finite ha hb)
  rw [mul_one] at sumNear sumInf
  exact ⟨sumNear, sumInf, mulNear, mulInf⟩

/-- The divisor's sign is moved to the dividend. -/
theorem signed_div {a b : F32} (h0 : isZero b = false) :
    signed (sign a != sign b) (magUnits (mag a) * 2 ^ 149) = units a * 2 ^ 149 * (units b).sign := by
  have hb : 0 < magUnits (mag b) := by
    rw [Nat.pos_iff_ne_zero, ne_eq, magUnits_eq_zero]
    simpa [isZero] using h0
  have hsign : (units b).sign = if sign b then -1 else 1 := by
    have hone : (magUnits (mag b) : Int).sign = 1 := Int.sign_eq_one_of_pos (by exact_mod_cast hb)
    unfold units
    cases sign b <;> simp [hone]
  rw [hsign]
  unfold signed units
  cases sign a <;> cases sign b <;> simp

/-- Settles O53: the quotient is one rounded signed value over the divisor's magnitude. -/
theorem quotientsRoundToNearestEven : Obligations.QuotientsRoundToNearestEven := by
  intro a b ha hb h0
  dsimp only
  rw [natAbs_units b]
  have hden : 0 < magUnits (mag b) := by
    rw [Nat.pos_iff_ne_zero, ne_eq, magUnits_eq_zero]
    simpa [isZero] using h0
  exact round_spec hden (signed_div h0) (div_finite ha hb h0)

/-! ### Wrap (00_scope.md R13) -/

/-- `Wrap` keeps a number of its range. -/
theorem wrap_of_range {x : F32} (hx : isFinite x = true) (h1 : - units piF ≤ units x) (h2 : units x < units piF) :
    wrap x = x := by
  have nx := isNaN_of_isFinite hx
  have np := isNaN_of_isFinite isFinite_piF
  have hin : (le (neg piF) x && lt x piF) = true := by
    rw [Bool.and_eq_true, le_iff (by simpa using np) nx, lt_iff nx np, units_neg]
    exact ⟨h1, h2⟩
  rw [wrap, if_neg (by simp [hx]), if_pos hin]

/-- A whole number of units in [-PI_F, PI_F) is far from overflow, so it rounds to a nearest value. -/
theorem nearestEven_ofUnits {n : Int} (h1 : - units piF ≤ n) (h2 : n < units piF) : NearestEven (ofUnits n) n 1 := by
  have hlt : n.natAbs < (2 ^ 25 - 1) * 2 ^ 252 * 1 := by
    rw [units_piF] at h1 h2
    omega
  exact (round_spec one_pos (signed_decide n) rfl).1 hlt

/-- Settles O54: the exact remainder is `Wrap`'s own value, so rounding it changes nothing, and it is below PI_F. -/
theorem wrapIsTheExactRemainderRoundedOnce : Obligations.WrapIsTheExactRemainderRoundedOnce := by
  intro x hx
  obtain ⟨hfin, hval⟩ := units_wrap hx
  obtain ⟨hlo, hhi, k, hk, hunique⟩ := wrapUnits_spec (units x)
  rw [← hval] at hlo hhi hk
  have hround : units (ofUnits (units (wrap x))) = units (wrap x) := units_ofUnits_units (isNaN_of_isFinite hfin)
  have hne : ofUnits (units (wrap x)) ≠ piF := fun e => by
    rw [e] at hround
    omega
  refine ⟨hfin, hlo, hhi, fun h => wrap_of_range hx h.1 h.2, k, hunique, ⟨ofUnits (units (wrap x)), ?_, ?_⟩, hk⟩
  · rw [← hk]
    exact nearestEven_ofUnits hlo hhi
  · rw [if_neg hne, hround]

/-! ### TRIG (00_scope.md R12) -/

/-- Law (a): both zeros. -/
theorem trig_of_isZero {theta : F32} (h : isZero theta = true) : trig theta = (one, zero) := if_pos h

/-- A number whose magnitude is at most 1.0's is finite and between -1.0 and 1.0. -/
theorem bounded_of_mag_le {x : F32} (h : mag x ≤ mag one) :
    isFinite x = true ∧ le negOne x = true ∧ le x one = true := by
  have hm : (units x).natAbs ≤ (units one).natAbs := by
    rw [natAbs_units, natAbs_units]
    exact magUnits_le_iff.2 h
  have hneg : units negOne = - units one := by decide
  have hpos : 0 < units one := by decide
  have hfin : isFinite x = true := by
    rw [isFinite, decide_eq_true_eq]
    exact lt_of_le_of_lt h (by decide)
  have nx := isNaN_of_isFinite hfin
  rw [le_iff (by decide) nx, le_iff nx (by decide), hneg]
  exact ⟨hfin, by omega, by omega⟩

theorem mag_unitOf_le (raw : F32) : mag (unitOf raw) ≤ mag one := by
  unfold unitOf
  split
  · assumption
  · exact le_rfl

/-- Both components of `TRIG` are at most 1.0 in magnitude, for every function it may be. -/
theorem mag_trig_le (theta : F32) : mag (trig theta).1 ≤ mag one ∧ mag (trig theta).2 ≤ mag one := by
  unfold trig
  split
  · exact ⟨le_rfl, by decide⟩
  · exact ⟨mag_unitOf_le _, mag_unitOf_le _⟩

/-- Settles O55: law (a) by the definition at a zero, law (b) by the bound on the magnitudes. -/
theorem trigObeysItsLaws : Obligations.TrigObeysItsLaws :=
  ⟨trig_of_isZero (by decide), trig_of_isZero (by decide),
    fun theta => ⟨bounded_of_mag_le (mag_trig_le theta).1, bounded_of_mag_le (mag_trig_le theta).2⟩⟩

end Sys2Proof.F32

namespace Sys2Proof.Machine

open Sys2Proof.F32 Sys2Proof.Safety

/-! ### The host's gains (40_control.md R133) -/

theorem gainDenom_pos {b d : ℚ} (hb : 0 ≤ b) (hd : 0 ≤ d) : 0 < gainDenom b d := by
  unfold gainDenom
  positivity

/-- A rational between 0 and a whole number of binary32 keeps these bounds when it is rounded. -/
theorem finiteAnd_f32OfRat {x : ℚ} {bound : F32} {n : Nat} (hb : isFinite bound = true)
    (hu : units bound = n * 2 ^ 149) (h0 : 0 ≤ x) (hx : x ≤ n) :
    FiniteAnd (f32OfRat x) fun u => 0 ≤ u ∧ u ≤ n * 2 ^ 149 := by
  have hnum : 0 ≤ x.num := Rat.num_nonneg.2 h0
  have hle : x.num ≤ n * x.den := by
    have := (Rat.le_iff x n).1 hx
    simpa using this
  have hpack : f32OfRat x = F32.pack false (roundMag (x.num.natAbs * 2 ^ 149) x.den) := by
    rw [f32OfRat, decide_eq_false (not_lt.2 h0)]
  have hlow : 0 ≤ units (f32OfRat x) := by
    have hz : units F32.zero = 0 := by decide
    rw [hpack, ← hz]
    refine le_units_round x.den_pos (by decide) ?_
    rw [hz, zero_mul, signed, if_neg Bool.false_ne_true]
    exact Int.natCast_nonneg _
  have hhigh : units (f32OfRat x) ≤ units bound := by
    rw [hpack]
    refine units_round_le x.den_pos (isNaN_of_isFinite hb) ?_
    rw [signed, if_neg Bool.false_ne_true, hu]
    push_cast
    rw [abs_of_nonneg hnum]
    linarith
  refine ⟨isFinite_of_units_le hb ?_, hlow, hu ▸ hhigh⟩
  rw [abs_of_nonneg hlow, abs_of_nonneg (hlow.trans hhigh)]
  exact hhigh

/-- Settles O60: each gain is a quotient whose numerator is less than 2, or 4, times the denominator, and rounding keeps
the bounds of the check. -/
theorem hostGainsPassCheckFive : Obligations.HostGainsPassCheckFive := by
  intro b d c hb hd
  have hden := gainDenom_pos hb hd
  have hprod : 0 ≤ d * b := mul_nonneg hd hb
  have mu0 : 0 ≤ gainMu b d := div_nonneg (by positivity) hden.le
  have mu2 : gainMu b d < 2 := by
    rw [gainMu, div_lt_iff₀ hden, gainDenom]
    nlinarith [sq_nonneg b]
  have om0 : 0 ≤ gainOmega b d := div_nonneg (by positivity) hden.le
  have om4 : gainOmega b d < 4 := by
    rw [gainOmega, div_lt_iff₀ hden, gainDenom]
    nlinarith
  exact ⟨mu0, mu2, om0, om4, finiteAnd_f32OfRat (n := 2) (bound := two) (by decide) (by decide) mu0 mu2.le,
    finiteAnd_f32OfRat (n := 4) (bound := four) (by decide) (by decide) om0 om4.le⟩

end Sys2Proof.Machine
end

section
/-! PROOF. The arithmetic of the demodulator (41_demodulator.md R164 to R177): the latched timing window, the filter, the
interpolator, the derotation and the detectors. -/

namespace Sys2Proof.F32

open Sys2Proof.Safety

/-! ### Sums and products with 0.0, 1.0 and -1.0 -/

theorem units_of_isZero {x : F32} (h : isZero x = true) : units x = 0 := units_zero_iff.2 h

theorem isFinite_of_isZero {x : F32} (h : isZero x = true) : isFinite x = true := by
  simp only [isZero, isFinite, decide_eq_true_eq] at *
  rw [h]
  decide

/-- One exact value is one number, up to the sign of a zero. -/
theorem sameButZeroSign_of_units_eq {x y : F32} (h : units x = units y) : SameButZeroSign x y := by
  by_cases h0 : units x = 0
  · exact .inr ⟨units_zero_iff.1 h0, units_zero_iff.1 (h ▸ h0)⟩
  · exact .inl (eq_of_units_eq h h0)

/-- Adding a zero on the left keeps the exact value. -/
theorem units_add_of_isZero_left {z x : F32} (hz : isZero z = true) (hx : isFinite x = true) :
    units (add z x) = units x := by
  rw [units_add_eq (isFinite_of_isZero hz) hx, units_of_isZero hz, zero_add, units_ofUnits_units (isNaN_of_isFinite hx)]

/-- Adding a zero on the right keeps the exact value. -/
theorem units_add_of_isZero_right {z x : F32} (hz : isZero z = true) (hx : isFinite x = true) :
    units (add x z) = units x := by
  rw [units_add_eq hx (isFinite_of_isZero hz), units_of_isZero hz, add_zero, units_ofUnits_units (isNaN_of_isFinite hx)]

theorem isZero_mul_left {z x : F32} (hz : isZero z = true) (hx : isFinite x = true) : isZero (mul z x) = true := by
  have h0 : magUnits (mag z) = 0 := magUnits_eq_zero.2 (by simpa [isZero] using hz)
  rw [mul_finite (isFinite_of_isZero hz) hx, h0, Nat.zero_mul, roundMag_zero (by positivity), isZero, mag_pack (by norm_num)]
  rfl

theorem isZero_mul_right {z x : F32} (hz : isZero z = true) (hx : isFinite x = true) : isZero (mul x z) = true := by
  have h0 : magUnits (mag z) = 0 := magUnits_eq_zero.2 (by simpa [isZero] using hz)
  rw [mul_finite hx (isFinite_of_isZero hz), h0, Nat.mul_zero, roundMag_zero (by positivity), isZero, mag_pack (by norm_num)]
  rfl

/-- A product with a number of magnitude 1.0 is the other factor, with the sign of the product. -/
theorem mul_of_mag_one {u x : F32} (hu : mag u = mag one) (hx : isNaN x = false) :
    mul u x = pack (sign u != sign x) (mag x) := by
  have fu : isFinite u = true := by
    rw [isFinite, decide_eq_true_eq, hu]
    decide
  have zu : isZero u = false := by
    rw [isZero, decide_eq_false_iff_not, hu]
    decide
  rcases isFinite_or x with h | h | h
  · rw [mul_finite fu h, hu, show magUnits (mag one) = 2 ^ 149 by decide, Nat.mul_comm,
      roundMag_exact (by positivity) (mag_le_infMag hx)]
  · have hm : mag x = infMag := by simpa [isInf] using h
    have zx : isZero x = false := by
      rw [isZero, decide_eq_false_iff_not, hm]
      decide
    simp [mul, isNaN_of_isFinite fu, hx, h, zu, zx, hm]
  · rw [hx] at h
    cases h

theorem mul_one_left {x : F32} (hx : isNaN x = false) : mul one x = x := by
  rw [mul_of_mag_one rfl hx, show sign one = false by decide, Bool.false_bne, pack_sign_mag]

theorem mul_negOne_left {x : F32} (hx : isNaN x = false) : mul negOne x = neg x := by
  rw [mul_of_mag_one (by decide) hx, show sign negOne = true by decide, Bool.true_bne, neg_eq_pack]

theorem mul_comm_of_finite {x y : F32} (hx : isFinite x = true) (hy : isFinite y = true) : mul x y = mul y x := by
  rw [mul_finite hx hy, mul_finite hy hx, Nat.mul_comm, bne_comm]

theorem mul_one_right {x : F32} (hx : isFinite x = true) : mul x one = x := by
  rw [mul_comm_of_finite hx (by decide), mul_one_left (isNaN_of_isFinite hx)]

end Sys2Proof.F32

namespace Sys2Proof.Machine

open Sys2Proof.F32 Sys2Proof.Safety

theorem finiteC_iff (x : Cplx) : finiteC x = true ↔ isFinite x.i = true ∧ isFinite x.q = true := by
  rw [finiteC, Bool.and_eq_true]

/-! ### The matched filter (41_demodulator.md R164) -/

/-- One tap more (41_demodulator.md R164): the rounded products of tap and entry, each added with one rounding. -/
def addTap (acc : Cplx) (hx : F32 × Cplx) : Cplx :=
  ⟨F32.add acc.i (F32.mul hx.1 hx.2.i), F32.add acc.q (F32.mul hx.1 hx.2.q)⟩

theorem matchedFilter_eq (a : Active) (xl : Vector Cplx Config.mfMax) :
    matchedFilter a xl = ((a.regs.h.toList.zip xl.toList).take a.regs.filterSpan.toNat).foldl addTap ⟨F32.zero, F32.zero⟩ :=
  rfl

theorem taps_take_succ (h : Vector F32 Config.mfMax) (xl : Vector Cplx Config.mfMax) {n : Nat} (hn : n < Config.mfMax) :
    (h.toList.zip xl.toList).take (n + 1) = (h.toList.zip xl.toList).take n ++ [(h[n], xl[n])] := by
  have hlen : n < (h.toList.zip xl.toList).length := by simpa using hn
  rw [List.take_succ_eq_append_getElem hlen]
  simp

/-- Settles O38: a span of `n + 1` takes one pair more than a span of `n`, and the sum runs from tap 0 upward. -/
theorem filterAddsTapByTap : Obligations.FilterAddsTapByTap := by
  intro a xl
  refine ⟨fun h => ?_, fun n hn h => ?_⟩
  · rw [matchedFilter_eq, h]
    rfl
  · have hn64 : n < 64 := hn
    have hlong : a.regs.filterSpan.toNat = n + 1 := by
      rw [h, BitVec.toNat_ofNat]
      omega
    have hshort : (BitVec.ofNat 32 n).toNat = n := by
      rw [BitVec.toNat_ofNat]
      omega
    dsimp only
    rw [matchedFilter_eq, matchedFilter_eq, hlong, hshort, taps_take_succ _ _ hn, List.foldl_append]
    rfl

/-- Adding to +0.0 gives the number, and +0.0 for either zero. -/
theorem add_zero_left {x : F32} (hx : isFinite x = true) :
    F32.add F32.zero x = if isZero x then F32.zero else x := by
  have hu : units F32.zero = 0 := by decide
  have nx := isNaN_of_isFinite hx
  rw [add_finite (by decide) hx, hu, zero_add]
  by_cases h0 : units x = 0
  · rw [if_pos h0, if_pos (units_zero_iff.1 h0)]
    rfl
  · rw [if_neg h0, if_neg (mt units_zero_iff.2 h0)]
    exact eq_of_units_eq (units_ofUnits_units nx) (by rwa [units_ofUnits_units nx])

/-- Settles O39: the one product is the entry itself, added to +0.0. -/
theorem oneUnitTapPassesThrough : Obligations.OneUnitTapPassesThrough := by
  intro a xl hspan htap hfin
  obtain ⟨hi, hq⟩ := (finiteC_iff _).1 hfin
  have hone : (1#32).toNat = 0 + 1 := rfl
  rw [matchedFilter_eq, hspan, hone, taps_take_succ _ _ (by decide), htap]
  change Cplx.mk (F32.add F32.zero (F32.mul one xl[0].i)) (F32.add F32.zero (F32.mul one xl[0].q)) = _
  rw [mul_one_left (isNaN_of_isFinite hi), mul_one_left (isNaN_of_isFinite hq), add_zero_left hi, add_zero_left hq]

/-! ### The interpolator (41_demodulator.md R167) -/

theorem lineAt_of_lt {n : Nat} (entries : Vector Cplx n) {k : Nat} (h : k < n) : lineAt entries k = entries[k] := dif_pos h

theorem sameButZeroSign_at_zero {x y : F32} (hx : isFinite x = true) (hy : isFinite y = true) :
    SameButZeroSign (F32.add (F32.mul one x) (F32.mul F32.zero y)) x := by
  apply sameButZeroSign_of_units_eq
  rw [mul_one_left (isNaN_of_isFinite hx), units_add_of_isZero_right (isZero_mul_left (by decide) hy) hx]

theorem sameButZeroSign_at_one {x y : F32} (hx : isFinite x = true) (hy : isFinite y = true) :
    SameButZeroSign (F32.add (F32.mul F32.zero x) (F32.mul one y)) y := by
  apply sameButZeroSign_of_units_eq
  rw [mul_one_left (isNaN_of_isFinite hy), units_add_of_isZero_left (isZero_mul_left (by decide) hx) hy]

/-- Settles O40: the weights at the endpoints are 1.0 and +0.0. -/
theorem interpolatorMeetsItsEndpoints : Obligations.InterpolatorMeetsItsEndpoints := by
  intro dl j h fj fj1
  obtain ⟨ji, jq⟩ := (finiteC_iff _).1 fj
  obtain ⟨ki, kq⟩ := (finiteC_iff _).1 fj1
  have w0 : F32.sub one F32.zero = one := by decide
  have w1 : F32.sub one one = F32.zero := by decide
  simp only [interp, lineAt_of_lt dl h, lineAt_of_lt dl (Nat.lt_of_succ_lt h), w0, w1]
  exact ⟨⟨sameButZeroSign_at_zero ji ki, sameButZeroSign_at_zero jq kq⟩,
    sameButZeroSign_at_one ji ki, sameButZeroSign_at_one jq kq⟩

/-! ### The derotation (41_demodulator.md R171) -/

/-- Settles O41: the angle's cosine and sine are 1.0 and +0.0, so one product is the component itself and the other a
zero. -/
theorem zeroPhaseDoesNotRotate : Obligations.ZeroPhaseDoesNotRotate := by
  intro v theta hv htheta
  obtain ⟨hi, hq⟩ := (finiteC_iff _).1 hv
  rw [trig_of_isZero htheta]
  refine ⟨sameButZeroSign_of_units_eq ?_, sameButZeroSign_of_units_eq ?_⟩
  · rw [derot, mul_one_right hi, units_add_of_isZero_right (isZero_mul_right (by decide) hq) hi]
  · have hz : isZero (F32.neg (F32.mul v.i F32.zero)) = true := by
      rw [isZero, mag_neg]
      exact isZero_mul_right (by decide) hi
    rw [derot, mul_one_right hq, F32.sub, units_add_of_isZero_right hz hq]

/-! ### The detectors (41_demodulator.md R169 to R174) -/

/-- A product with the sign of the decision. -/
theorem mul_decision {x : F32} (neg : Bool) (hx : isNaN x = false) :
    F32.mul (if neg then negOne else one) x = if neg then F32.neg x else x := by
  cases neg with
  | false => exact mul_one_left hx
  | true => exact mul_negOne_left hx

/-- Settles O42: the discriminants are products with 1.0 or -1.0, and the decision is the comparison with +0.0. -/
theorem detectorsAreDecisionDirected : Obligations.DetectorsAreDecisionDirected := by
  intro s
  refine ⟨rfl, rfl, ?_, fun h => mul_decision _ h, fun h => mul_decision _ h⟩
  have hlt : (detect s).neg = F32.lt (detect s).yOn.i F32.zero := rfl
  rw [hlt, F32.lt, show isNaN F32.zero = false by decide, show units F32.zero = 0 by decide]
  simp

/-! ### The timing window (40_control.md R128) -/

theorem latchActive_tq (c : CfgRegs) : (latchActive c).tq = F32.mul (spsOf c) c.timLimit := rfl

theorem latchActive_rlim (c : CfgRegs) : (latchActive c).rlim = (latchActive c).tq := rfl

theorem latchActive_tmin (c : CfgRegs) :
    (latchActive c).tmin = F32.add (spsOf c) (F32.neg (latchActive c).tq) := rfl

theorem latchActive_tmax (c : CfgRegs) : (latchActive c).tmax = F32.add (spsOf c) (latchActive c).tq := rfl

/-- Check 3: SPS is finite, from 2.0 to 65536.0. -/
theorem sps_bounds {c : CfgRegs} (h : validate c = 0#4) :
    FiniteAnd (spsOf c) fun u => 2 * 2 ^ 149 ≤ u ∧ u ≤ 65536 * 2 ^ 149 :=
  startCheck_of_valid h 3 (by omega) (by omega)

/-- TQ is at most half of SPS, since TIM_LIMIT is at most 0.5. -/
theorem tq_bounds {c : CfgRegs} (h : validate c = 0#4) :
    FiniteAnd (latchActive c).tq fun u => 0 ≤ u ∧ 2 * u ≤ units (spsOf c) := by
  obtain ⟨hsf, hs2, -⟩ := sps_bounds h
  obtain ⟨-, -, hlf, hl0, hl1⟩ := startCheck_of_valid h 7 (by omega) (by omega)
  obtain ⟨y, hyf, hy⟩ := exists_half hs2 hsf
  have hlow : units F32.zero ≤ units (F32.mul (spsOf c) c.timLimit) := by
    refine le_units_mul hsf hlf (by decide) ?_
    rw [show units F32.zero = 0 by decide, zero_mul]
    exact mul_nonneg (by omega) hl0
  have hhigh : units (F32.mul (spsOf c) c.timLimit) ≤ units y := by
    refine units_mul_le hsf hlf (isNaN_of_isFinite hyf) ?_
    have : units y * (2 * units c.timLimit) ≤ units y * 2 ^ 149 := mul_le_mul_of_nonneg_left hl1 (by omega)
    rw [← hy]
    linarith
  rw [show units F32.zero = 0 by decide] at hlow
  rw [latchActive_tq]
  refine ⟨isFinite_of_units_le hyf ?_, hlow, by omega⟩
  rw [abs_of_nonneg hlow, abs_of_nonneg (hlow.trans hhigh)]
  exact hhigh

theorem tmin_bounds {c : CfgRegs} (h : validate c = 0#4) :
    FiniteAnd (latchActive c).tmin fun u => units one ≤ u ∧ u ≤ units (spsOf c) := by
  obtain ⟨hsf, hs2, -⟩ := sps_bounds h
  obtain ⟨htf, ht0, ht2⟩ := tq_bounds h
  have hnf : isFinite (F32.neg (latchActive c).tq) = true := by rw [isFinite_neg]; exact htf
  have hlow : units one ≤ units (latchActive c).tmin := by
    rw [latchActive_tmin]
    refine le_units_add hsf hnf (by decide) ?_
    rw [units_neg, units_one]
    omega
  have hhigh : units (latchActive c).tmin ≤ units (spsOf c) := by
    rw [latchActive_tmin]
    refine units_add_le hsf hnf (isNaN_of_isFinite hsf) ?_
    rw [units_neg]
    omega
  rw [units_one] at hlow
  refine ⟨isFinite_of_units_le hsf ?_, by rw [units_one]; exact hlow, hhigh⟩
  rw [abs_of_nonneg (by omega), abs_of_nonneg (by omega)]
  exact hhigh

theorem tmax_bounds {c : CfgRegs} (h : validate c = 0#4) :
    FiniteAnd (latchActive c).tmax fun u => units (spsOf c) ≤ u ∧ u ≤ 2 ^ 17 * 2 ^ 149 := by
  obtain ⟨hsf, hs2, hs3⟩ := sps_bounds h
  obtain ⟨htf, ht0, ht2⟩ := tq_bounds h
  have hlow : units (spsOf c) ≤ units (latchActive c).tmax := by
    rw [latchActive_tmax]
    exact le_units_add hsf htf (isNaN_of_isFinite hsf) (by omega)
  have htop : units 0x48000000#32 = 2 ^ 17 * 2 ^ 149 := by decide
  have hhigh : units (latchActive c).tmax ≤ units 0x48000000#32 := by
    rw [latchActive_tmax]
    exact units_add_le hsf htf (by decide) (by omega)
  refine ⟨isFinite_of_units_le (y := 0x48000000#32) (by decide) ?_, hlow, htop ▸ hhigh⟩
  rw [abs_of_nonneg (by omega), abs_of_nonneg (by omega)]
  exact hhigh

/-- Rounding is monotone: TMAX rounds a sum of at most 1.5 * SPS, the product rounds 1.5 * SPS. -/
theorem tmax_le_mul_sps {c : CfgRegs} (h : validate c = 0#4) :
    units (latchActive c).tmax ≤ units (F32.mul 0x3FC00000#32 (spsOf c)) := by
  obtain ⟨hsf, hs2, -⟩ := sps_bounds h
  obtain ⟨htf, ht0, ht2⟩ := tq_bounds h
  have hpos : 0 < units (spsOf c) + units (latchActive c).tq := by omega
  have hsign : sign (spsOf c) = false := by
    by_contra hc
    have : units (spsOf c) = -(magUnits (mag (spsOf c)) : Int) := by simp [units, eq_true_of_ne_false hc]
    omega
  have hsum : (latchActive c).tmax =
      F32.pack false (roundMag (units (spsOf c) + units (latchActive c).tq).natAbs 1) := by
    rw [latchActive_tmax, add_finite hsf htf, if_neg hpos.ne', ofUnits, decide_eq_false (by omega)]
  rw [hsum, mul_finite (by decide) hsf, hsign, show (sign 0x3FC00000#32 != false) = false by decide,
    units_pack (roundMag_lt _ _), units_pack (roundMag_lt _ _), signed, if_neg Bool.false_ne_true, signed,
    if_neg Bool.false_ne_true, Int.ofNat_le, magUnits_le_iff, ← natAbs_units (spsOf c),
    show magUnits (mag 0x3FC00000#32) = 3 * 2 ^ 148 by decide]
  refine roundMag_mono one_pos (by positivity) ?_
  omega

/-- Settles O23: the two ends are SPS less and plus at most its half, and rounding passes neither SPS nor 1.0. -/
theorem timingWindowIsOrdered : Obligations.TimingWindowIsOrdered := by
  intro c h
  obtain ⟨hsf, -⟩ := sps_bounds h
  obtain ⟨hminf, hmin1, hmin2⟩ := tmin_bounds h
  obtain ⟨hmaxf, hmax1, -⟩ := tmax_bounds h
  have ns := isNaN_of_isFinite hsf
  have nmin := isNaN_of_isFinite hminf
  have nmax := isNaN_of_isFinite hmaxf
  exact ⟨hminf, hsf, hmaxf, (le_iff (by decide) nmin).2 hmin1, (le_iff nmin ns).2 hmin2, (le_iff ns nmax).2 hmax1,
    (le_iff nmax (isNaN_mul_finite (by decide) hsf)).2 (tmax_le_mul_sps h)⟩

/-! ### The open timing loop (41_demodulator.md R177) -/

theorem bounded_iff {lo x hi : F32} (hl : isNaN lo = false) (hh : isNaN hi = false) :
    Bounded lo x hi ↔ FiniteAnd x fun u => units lo ≤ u ∧ u ≤ units hi := by
  unfold Bounded FiniteAnd within
  refine and_congr_right fun hx => ?_
  rw [Bool.and_eq_true, le_iff hl (isNaN_of_isFinite hx), le_iff (isNaN_of_isFinite hx) hh]

/-- The unclamped period is no NaN, so the clamp keeps it in the window. -/
theorem isNaN_period {c : CfgRegs} (h : validate c = 0#4) {et tacc : F32} (he : isFinite et = true)
    (ht : FiniteAnd tacc fun u => - units (latchActive c).rlim ≤ u ∧ u ≤ units (latchActive c).rlim) :
    isNaN (F32.add (F32.add (spsOf c) tacc) (F32.mul c.timMu et)) = false := by
  obtain ⟨hsf, hs2, hs3⟩ := sps_bounds h
  obtain ⟨-, htq0, htq2⟩ := tq_bounds h
  obtain ⟨⟨hmu, -⟩, -⟩ := startCheck_of_valid h 7 (by omega) (by omega)
  obtain ⟨hta, hta1, hta2⟩ := ht
  rw [latchActive_rlim] at hta1 hta2
  have htop : units 0x48000000#32 = 2 ^ 17 * 2 ^ 149 := by decide
  have hsum : isFinite (F32.add (spsOf c) tacc) = true := by
    have h1 : units F32.zero ≤ units (F32.add (spsOf c) tacc) :=
      le_units_add hsf hta (by decide) (by rw [show units F32.zero = 0 by decide]; omega)
    have h2 : units (F32.add (spsOf c) tacc) ≤ units 0x48000000#32 :=
      units_add_le hsf hta (by decide) (by omega)
    rw [show units F32.zero = 0 by decide] at h1
    refine isFinite_of_units_le (y := 0x48000000#32) (by decide) ?_
    rw [abs_of_nonneg h1, abs_of_nonneg (by omega)]
    exact h2
  exact isNaN_add_left_finite hsum (isNaN_mul_finite hmu he)

/-- R177: the next period lies in the timing window. -/
theorem nextPeriod_bounds {c : CfgRegs} (h : validate c = 0#4) {et tacc : F32} (he : isFinite et = true)
    (ht : FiniteAnd tacc fun u => - units (latchActive c).rlim ≤ u ∧ u ≤ units (latchActive c).rlim) :
    FiniteAnd (nextPeriod et tacc (latchActive c)) fun u =>
      units (latchActive c).tmin ≤ u ∧ u ≤ units (latchActive c).tmax := by
  obtain ⟨hminf, -, hmin2⟩ := tmin_bounds h
  obtain ⟨hmaxf, hmax1, -⟩ := tmax_bounds h
  exact clamp_units (isNaN_period h he ht) hminf hmaxf (by omega)

/-- Settles O43: TQ is a zero, so both ends of the window are SPS, and the period is clamped to it. -/
theorem zeroTimingLimitOpensTheLoop : Obligations.ZeroTimingLimitOpensTheLoop := by
  intro c et tacc h hz het htacc
  obtain ⟨hsf, hs2, -⟩ := sps_bounds h
  have htq : isZero (latchActive c).tq = true := isZero_mul_right hz hsf
  have hrf : isFinite (latchActive c).rlim = true := isFinite_of_isZero htq
  have hntq : isZero (F32.neg (latchActive c).tq) = true := by rw [isZero, mag_neg]; exact htq
  have htacc' := (bounded_iff (by simpa using isNaN_of_isFinite hrf) (isNaN_of_isFinite hrf)).1 htacc
  rw [units_neg] at htacc'
  obtain ⟨-, hp1, hp2⟩ := nextPeriod_bounds h het.1 htacc'
  have hmin : units (latchActive c).tmin = units (spsOf c) := units_add_of_isZero_right hntq hsf
  have hmax : units (latchActive c).tmax = units (spsOf c) := units_add_of_isZero_right htq hsf
  have hp : units (nextPeriod et tacc (latchActive c)) = units (spsOf c) := by omega
  exact eq_of_units_eq hp (by omega)

end Sys2Proof.Machine
end

section
/-! PROOF. Steps (00_scope.md R18), and the register map, what its registers show and what a store moves (20_memory.md R63
to R67, R80, R85). -/

namespace Sys2Proof.Machine

open Sys2Proof.Safety

/-! ### Steps (00_scope.md R18, 70_reset_and_hazards.md R280) -/

theorem step_nil {s : State} (h : s.inbox = []) : step s = .next (idleStep s) := by
  simp [step, h]

theorem step_powerOn {s : State} {rest : List Input} (h : s.inbox = .powerOn :: rest) :
    step s = .next (powerOnReset rest s) := by
  simp [step, h]

theorem step_word {s : State} {t : TWord} {rest : List Input} {i : Instr} (h : s.inbox = .word t :: rest)
    (hd : decode t = .ok i) : step s = exec i (takeWord rest s) := by
  simp [step, h, hd]

/-- Settles O7: a step at a decoded word is the transaction at the state with the word taken. -/
theorem stepPerformsThePresentedTransaction : Obligations.StepPerformsThePresentedTransaction :=
  fun _ _ _ _ h hd => step_word h hd

/-- Settles O8: a step at the reset input, and one with nothing presented. -/
theorem resetInputAndIdleSteps : Obligations.ResetInputAndIdleSteps :=
  ⟨fun _ _ h => step_powerOn h, fun _ h => step_nil h⟩

/-! ### The register map (20_memory.md R63, R64) -/

/-- Every register is found at its own address. -/
theorem regAt_addr (r : Reg) : regAt r.addr = some r := by
  cases r with
  | h k =>
    have hk : k.val < 64 := k.isLt
    have ha := addr_h_toNat k
    have hplace : (0x400 + 4 * k.val) % 4 = 0 ∧ (0x400 + 4 * k.val - 0x400) / 4 < Config.mfMax := by
      have : Config.mfMax = 64 := rfl
      omega
    simp only [regAt, ha, dif_pos hplace]
    rw [if_neg (by omega), Option.some_inj, Reg.h.injEq, Fin.mk_eq_mk]
    omega
  | _ => decide

/-- The rows below 0x400 leave out 0x00C and the places between 0x058 and 0x080. -/
theorem lookup_regRows_isSome : ∀ k < 42, k ≤ 2 ∨ (4 ≤ k ∧ k ≤ 22) ∨ 32 ≤ k → (regRows.lookup (4 * k)).isSome = true := by
  decide

theorem regAt_isSome_of_mapped {a : Addr} (h : Mapped a.toNat) : (regAt a).isSome = true := by
  obtain ⟨halign, hrange⟩ := h
  unfold regAt
  dsimp only
  split
  · next hlt =>
    have h4 : 4 * (a.toNat / 4) = a.toNat := by omega
    rw [← h4]
    exact lookup_regRows_isSome (a.toNat / 4) (by omega) (by omega)
  · next hge =>
    have htap : (a.toNat - 0x400) / 4 < Config.mfMax := by
      have : Config.mfMax = 64 := rfl
      omega
    rw [dif_pos ⟨halign, htap⟩]
    rfl

theorem regAt_isSome_iff (a : Addr) : (regAt a).isSome = true ↔ Mapped a.toNat := by
  refine ⟨fun h => ?_, regAt_isSome_of_mapped⟩
  obtain ⟨r, hr⟩ := Option.isSome_iff_exists.1 h
  exact addr_of_regAt hr ▸ mapped_addr r

/-- CTRL, the one write-only register, stands at address 0 alone. -/
theorem access_wo_iff_addr {a : Addr} {r : Reg} (h : regAt a = some r) : r.access = .wo ↔ a = 0#12 := by
  rw [access_wo_iff]
  constructor
  · rintro rfl
    exact (addr_of_regAt h).symm
  · rintro rfl
    exact (Option.some.inj (regAt_zero.symm.trans h)).symm

/-- Settles O10: the mapped addresses, the inverse of `Reg.addr`, and the access classes. -/
theorem registerMapIsTheTables : Obligations.RegisterMapIsTheTables :=
  ⟨regAt_isSome_iff, regAt_addr,
    fun _ r h => ⟨addr_of_regAt h, addr_of_regAt h ▸ access_ro_iff r, access_wo_iff_addr h⟩⟩

/-! ### What the registers show (20_memory.md R80, R85) -/

theorem toNat_append_eq_add {n m : Nat} (x : BitVec n) (y : BitVec m) :
    (x ++ y).toNat = x.toNat * 2 ^ m + y.toNat := by
  rw [BitVec.toNat_append, ← Nat.shiftLeft_add_eq_or_of_lt y.isLt, Nat.shiftLeft_eq]

/-- STATUS as a number: each field at its place. -/
theorem statusWord_toNat (s : State) :
    (statusWord s).toNat = s.badAccess.toNat * 2 ^ 12 + s.badCmd.toNat * 2 ^ 11 + s.nfErr.toNat * 2 ^ 10 +
      s.nfMf.toNat * 2 ^ 9 + s.nfIn.toNat * 2 ^ 8 + s.cfgCode.toNat * 2 ^ 4 + s.cfgErr.toNat * 2 ^ 3 +
      s.pol.toNat * 2 ^ 2 + s.sync.toNat * 2 + s.run.toNat := by
  simp only [statusWord, toNat_append_eq_add, BitVec.toNat_ofBool, BitVec.toNat_ofNat]
  omega

/-- The flags of STATUS, each at its bit. -/
theorem statusWord_getLsbD (s : State) :
    (statusWord s).getLsbD 0 = s.run ∧ (statusWord s).getLsbD 1 = s.sync ∧ (statusWord s).getLsbD 2 = s.pol ∧
      (statusWord s).getLsbD 3 = s.cfgErr ∧ (statusWord s).getLsbD 8 = s.nfIn ∧ (statusWord s).getLsbD 9 = s.nfMf ∧
      (statusWord s).getLsbD 10 = s.nfErr ∧ (statusWord s).getLsbD 11 = s.badCmd ∧
      (statusWord s).getLsbD 12 = s.badAccess := by
  simp only [statusWord, BitVec.getLsbD_append]
  simp

theorem wreg_halves (w : BitVec 64) : w.extractLsb' 32 32 ++ w.extractLsb' 0 32 = w := by
  apply BitVec.eq_of_toNat_eq
  rw [toNat_append_eq_add, BitVec.extractLsb'_toNat, BitVec.extractLsb'_toNat, Nat.shiftRight_eq_div_pow]
  omega

/-- Settles O12: STATUS by its bits and by its number, the narrow counters by their zero extension, the window by its two
halves. -/
theorem statusAndDebugRegistersShowTheState : Obligations.StatusAndDebugRegistersShowTheState := by
  intro s
  obtain ⟨b0, b1, b2, b3, b8, b9, b10, b11, b12⟩ := statusWord_getLsbD s
  have hnum := statusWord_toNat s
  have hcode : s.cfgCode.toNat < 16 := s.cfgCode.isLt
  have r0 := Bool.toNat_lt s.run
  have r1 := Bool.toNat_lt s.sync
  have r2 := Bool.toNat_lt s.pol
  have r3 := Bool.toNat_lt s.cfgErr
  have r8 := Bool.toNat_lt s.nfIn
  have r9 := Bool.toNat_lt s.nfMf
  have r10 := Bool.toNat_lt s.nfErr
  have r11 := Bool.toNat_lt s.badCmd
  have r12 := Bool.toNat_lt s.badAccess
  refine ⟨⟨b0, b1, b2, b3, ?_, b8, b9, b10, b11, b12, ?_⟩, rfl, rfl, rfl, rfl, rfl, rfl, ?_, rfl, ?_, wreg_halves s.wreg⟩
  · change (statusWord s).toNat / 16 % 16 = _
    omega
  · change (statusWord s).toNat < _
    omega
  · exact BitVec.toNat_setWidth_of_le (by omega)
  · exact BitVec.toNat_setWidth_of_le (by omega)

/-! ### A stored register (20_memory.md R65) -/

theorem readReg_storeCfg_same {r : Reg} (hr : r.access = .rw) (v : Word) (s : State) :
    readReg r { s with cfg := storeCfg r v s.cfg } = v := by
  cases r with
  | h k => exact Vector.getElem_set_self _
  | _ => cases hr <;> rfl

/-- A tap's store moves no other register. -/
theorem readReg_storeTap_of_ne {k : Fin Config.mfMax} {r : Reg} (hne : r ≠ .h k) (v : Word) (s : State) :
    readReg r { s with cfg := storeCfg (.h k) v s.cfg } = readReg r s := by
  cases r with
  | h j =>
    have hjk : k.val ≠ j.val := fun e => hne (by rw [Fin.ext e])
    exact Vector.getElem_set_ne k.isLt j.isLt hjk
  | _ => rfl

theorem readReg_storeCfg_of_ne {r r' : Reg} (hne : r' ≠ r) (v : Word) (s : State) :
    readReg r' { s with cfg := storeCfg r v s.cfg } = readReg r' s := by
  cases r with
  | h k => exact readReg_storeTap_of_ne hne v s
  | _ => cases r' <;> trivial

/-- Settles O14: the address finds the register, and the store moves that register alone. -/
theorem writtenRegisterReadsBack : Obligations.WrittenRegisterReadsBack := by
  intro r v s hr
  refine ⟨{ s with cfg := storeCfg r v s.cfg }, ?_, readReg_storeCfg_same hr v s,
    fun r' hne => readReg_storeCfg_of_ne hne v s⟩
  rw [exec_write, memWrite_of_rw (regAt_addr r) hr]

end Sys2Proof.Machine
end

section
/-! PROOF. START and STOP (40_control.md R125 to R132), every transaction's effect said once, and the whole-machine rules
that follow from it (10_state.md R22, R26, 60_exceptions.md R251, R252, R255). -/

namespace Sys2Proof.Machine

open Sys2Proof.Safety

/-! ### STOP (40_control.md R125, R132) -/

theorem exec_ctrlStop (clr : Bool) (s : State) : exec (.ctrlStop clr) s = .next (stop (clearIf clr s)) := rfl

theorem stop_eq (s : State) : stop s = { s with run := false, pkCount := 0#13, pkBuf := [] } := rfl

/-- Settles O18: `stop` on the state that CLR leaves. -/
theorem stopDiscardsThePartialGroup : Obligations.StopDiscardsThePartialGroup := by
  intro s
  constructor
  · rw [exec_ctrlStop, clearIf_false, stop_eq]
  · rw [exec_ctrlStop, clearIf_true, stop_eq, clearSticky]

/-- Settles O24: a stopped block's packer is empty, so the three fields that STOP sets have these values already. -/
theorem stopWhileStoppedChangesNothing : Obligations.StopWhileStoppedChangesNothing := by
  rintro s ⟨hlive, hstopped, -⟩ hrun
  have hcount : s.pkCount = 0#13 := hstopped hrun
  have hbuf : s.pkBuf = [] := by
    rw [hcount] at hlive
    exact List.eq_nil_of_length_eq_zero hlive
  rw [exec_ctrlStop, clearIf_false, stop_eq, ← hrun, ← hcount, ← hbuf]

/-! ### START (40_control.md R126 to R130) -/

theorem exec_ctrlStart (clr : Bool) (s : State) : exec (.ctrlStart clr) s = .next (start (clearIf clr s)) := rfl

theorem start_of_invalid {s : State} (h : validate s.cfg ≠ 0#4) :
    start s = { s with run := false, pkCount := 0#13, pkBuf := [], cfgErr := true, cfgCode := validate s.cfg } := by
  rcases start_cases s with ⟨-, e⟩ | ⟨hv, -⟩
  · rw [e, failStart, stop_eq]
  · exact absurd hv h

/-- What a START that passes makes of the state (40_control.md R126, R128, R129). -/
def startedFrom (s : State) : State := initDatapath { stop s with act := latchActive s.cfg }

@[simp] theorem startedFrom_cfg (s : State) : (startedFrom s).cfg = s.cfg := rfl
@[simp] theorem startedFrom_act (s : State) : (startedFrom s).act = latchActive s.cfg := rfl
@[simp] theorem startedFrom_run (s : State) : (startedFrom s).run = true := rfl
@[simp] theorem startedFrom_events (s : State) : (startedFrom s).events = s.events := rfl
@[simp] theorem startedFrom_badCmd (s : State) : (startedFrom s).badCmd = s.badCmd := rfl
@[simp] theorem startedFrom_badAccess (s : State) : (startedFrom s).badAccess = s.badAccess := rfl

theorem start_of_valid {s : State} (h : validate s.cfg = 0#4) : start s = startedFrom s := by
  rcases start_cases s with ⟨hv, -⟩ | ⟨-, e⟩
  · exact absurd h hv
  · exact e

/-- Settles O19: CLR does not touch the configuration that is checked. -/
theorem failedStartReportsTheCode : Obligations.FailedStartReportsTheCode := by
  intro s clr h
  rw [exec_ctrlStart, start_of_invalid (by rwa [clearIf_cfg])]
  simp only [clearIf_cfg]

/-- The mask is the number of UW_LEN ones (40_control.md R128). -/
theorem maskOf_eq_ofNat {uwLen : Word} (h : uwLen.toNat ≤ 64) : maskOf uwLen = BitVec.ofNat 64 (2 ^ uwLen.toNat - 1) := by
  apply BitVec.eq_of_getLsbD_eq
  intro i hi
  rw [maskOf_getLsbD h, BitVec.getLsbD_ofNat, Nat.testBit_two_pow_sub_one]
  simp [hi]

/-- Settles O20: `InitDatapath` on the latched configuration; the mask's two forms agree for a valid UW_LEN. -/
theorem successfulStartLatchesAndInitialises : Obligations.SuccessfulStartLatchesAndInitialises := by
  intro s clr h
  obtain ⟨-, hlen, -⟩ := startCheck_of_valid h 10 (by omega) (by omega)
  rw [exec_ctrlStart, start_of_valid (by rwa [clearIf_cfg]), startedFrom, clearIf_cfg, ← maskOf_eq_ofNat hlen]
  rfl

/-- The first check fails on SAMPLE_RATE = 0.0 (70_reset_and_hazards.md R282). -/
theorem validate_reset : validate State.reset.cfg = 1#4 := by
  refine (validate_eq_code_iff _ le_rfl (by omega)).2 ⟨?_, by omega⟩
  rintro ⟨-, hpos⟩
  exact absurd hpos (by decide)

/-- Settles O22: the failed START of `failedStartReportsTheCode`, with the code of the first check. -/
theorem startAfterResetFailsWithCodeOne : Obligations.StartAfterResetFailsWithCodeOne := by
  have hne : validate State.reset.cfg ≠ 0#4 := by
    rw [validate_reset]
    decide
  refine ⟨_, failedStartReportsTheCode State.reset false hne, rfl, validate_reset, ?_⟩
  rw [validate_reset]
  decide

/-! ### Every transaction's effect -/

/-- Settles O25: every arm of `exec` answers a next state. -/
theorem everyTransactionCompletes : Obligations.EveryTransactionCompletes := exec_eq_next

/-- Settles O31: the stopped arm of SAMPLE. -/
theorem stoppedSampleIsNotAccepted : Obligations.StoppedSampleIsNotAccepted :=
  fun _ i q h => execSample_stopped i q h

/-- What a well-formed transaction can do, case by case (30_encoding.md R96). -/
inductive Effect (s : State) : Instr → State → Prop
  | accepted (re im : F32) : s.run = true → Effect s (.sample re im) (acceptSample ⟨re, im⟩ s)
  | notAccepted (re im : F32) : s.run = false → Effect s (.sample re im) (answer .notAccepted s)
  | stored (a : Addr) (v : Word) (r : Reg) : Effect s (.write a v) { s with cfg := storeCfg r v s.cfg }
  | writeRefused (a : Addr) (v : Word) : ¬ Mapped a.toNat ∨ ReadOnly a.toNat →
      Effect s (.write a v) (raise .badAccess s)
  | answered (a : Addr) (w : Word) : Effect s (.read a) (answer (.response w) s)
  | readRefused (a : Addr) : ¬ Mapped a.toNat → Effect s (.read a) (answer (.response 0#32) (raise .badAccess s))
  | none (clr : Bool) : Effect s (.ctrlNone clr) (clearIf clr s)
  | started (clr : Bool) : validate s.cfg = 0#4 →
      Effect s (.ctrlStart clr) (startedFrom (clearIf clr s))
  | startFailed (clr : Bool) : validate s.cfg ≠ 0#4 →
      Effect s (.ctrlStart clr) (failStart (validate s.cfg) (stop (clearIf clr s)))
  | stopped (clr : Bool) : Effect s (.ctrlStop clr) (stop (clearIf clr s))
  | reserved (clr : Bool) : Effect s (.ctrlRsvd clr) (raise .badCmd (clearIf clr s))

theorem not_mapped_of_regAt_none {a : Addr} (h : regAt a = none) : ¬ Mapped a.toNat := by
  rw [← regAt_isSome_iff, h]
  exact Bool.false_ne_true

/-- A WRITE that is no CTRL command stores a register or raises BAD_ACCESS (20_memory.md R67). -/
theorem effect_memWrite {a : Addr} (ha : a ≠ 0#12) (v : Word) (s : State) :
    Effect s (.write a v) (memWrite a v s) := by
  rcases memWrite_cases a v s with ⟨hr, e⟩ | ⟨r, hr, hro, e⟩ | ⟨r, -, -, e⟩ | ⟨r, hr, hwo, -⟩
  · exact e ▸ .writeRefused a v (.inl (not_mapped_of_regAt_none hr))
  · exact e ▸ .writeRefused a v (.inr (addr_of_regAt hr ▸ (access_ro_iff r).1 hro))
  · exact e ▸ .stored a v r
  · exact absurd ((access_wo_iff_addr hr).1 hwo) ha

/-- A READ answers a register's value, or 0 with BAD_ACCESS (20_memory.md R66). -/
theorem effect_memRead (a : Addr) (s : State) :
    Effect s (.read a) (answer (.response (memRead a s).1) (memRead a s).2) := by
  rcases memRead_cases a s with ⟨hr, e⟩ | ⟨r, -, e⟩
  · exact e ▸ .readRefused a (not_mapped_of_regAt_none hr)
  · exact e ▸ .answered a (readReg r s)

theorem effect_start (clr : Bool) (s : State) : Effect s (.ctrlStart clr) (start (clearIf clr s)) := by
  rcases start_cases (clearIf clr s) with ⟨hv, e⟩ | ⟨hv, -⟩
  · rw [e, clearIf_cfg]
    exact .startFailed clr (by rwa [clearIf_cfg] at hv)
  · rw [start_of_valid hv]
    exact .started clr (by rwa [clearIf_cfg] at hv)

/-- Everything a well-formed transaction can answer. -/
theorem effect_of_exec {i : Instr} {s t : State} (hwf : i.wf = true) (h : exec i s = .next t) : Effect s i t := by
  cases i with
  | sample re im =>
    cases hr : s.run with
    | true =>
      obtain rfl := eq_acceptSample_of_exec hr h
      exact .accepted re im hr
    | false =>
      obtain rfl := Host.Outcome.next.inj ((execSample_stopped re im hr).symm.trans h)
      exact .notAccepted re im hr
  | write a v => exact Host.Outcome.next.inj h ▸ effect_memWrite (by simpa [Instr.wf] using hwf) v s
  | read a => exact Host.Outcome.next.inj h ▸ effect_memRead a s
  | ctrlNone clr => exact Host.Outcome.next.inj h ▸ .none clr
  | ctrlStart clr => exact Host.Outcome.next.inj h ▸ effect_start clr s
  | ctrlStop clr => exact Host.Outcome.next.inj h ▸ .stopped clr
  | ctrlRsvd clr => exact Host.Outcome.next.inj h ▸ .reserved clr

/-! ### The sticky bits (60_exceptions.md R251, R252) -/

theorem sticky_answer (e : StatusEvent) (r : Result) (s : State) : sticky e (answer r s) = sticky e s := by cases e <;> rfl

theorem sticky_stop (e : StatusEvent) (s : State) : sticky e (stop s) = sticky e s := by cases e <;> rfl

theorem sticky_failStart (e : StatusEvent) (code : BitVec 4) (s : State) :
    sticky e (failStart code s) = sticky e s := by cases e <;> rfl

theorem sticky_startedFrom (e : StatusEvent) (s : State) : sticky e (startedFrom s) = sticky e s := by cases e <;> rfl

theorem sticky_set_cfg (e : StatusEvent) (c : CfgRegs) (s : State) : sticky e { s with cfg := c } = sticky e s := by
  cases e <;> rfl

@[simp] theorem acceptSample_badCmd (x : Cplx) (s : State) : (acceptSample x s).badCmd = s.badCmd := by
  rcases acceptSample_cases x s with h | h <;> simp [h]

@[simp] theorem acceptSample_badAccess (x : Cplx) (s : State) : (acceptSample x s).badAccess = s.badAccess := by
  rcases acceptSample_cases x s with h | h <;> simp [h]

theorem strobe_nfErr (s : State) :
    (strobe s).nfErr = (s.nfErr || (!F32.isFinite (detect s).ep || !F32.isFinite (detect s).et)) := by
  rw [strobe_eq, extract_nfErr, emitSymbol_nfErr]

theorem acceptSample_nfErr_between {x : Cplx} {s : State} (h : ¬ IsStrobe s) : (acceptSample x s).nfErr = s.nfErr := by
  rw [acceptSample_between h, advanceNco_nfErr, countedDown_nfErr]

theorem acceptSample_nfErr_strobe {x : Cplx} {s : State} (h : IsStrobe s) :
    (acceptSample x s).nfErr = (s.nfErr ||
      (!F32.isFinite (detect (countedDown x s)).ep || !F32.isFinite (detect (countedDown x s)).et)) := by
  rw [acceptSample_strobe h, advanceNco_nfErr, strobe_nfErr, countedDown_nfErr]

/-- An accepted SAMPLE clears no sticky bit. -/
theorem sticky_acceptSample_of_sticky {e : StatusEvent} {x : Cplx} {s : State} (h : sticky e s = true) :
    sticky e (acceptSample x s) = true := by
  cases e with
  | nfIn => simpa [sticky] using .inl h
  | nfMf => simpa [sticky] using .inl h
  | badCmd => simpa [sticky] using h
  | badAccess => simpa [sticky] using h
  | nfErr =>
    change s.nfErr = true at h
    by_cases hs : IsStrobe s
    · change (acceptSample x s).nfErr = true
      rw [acceptSample_nfErr_strobe hs, h, Bool.true_or]
    · change (acceptSample x s).nfErr = true
      rw [acceptSample_nfErr_between hs, h]

/-- R251 for a CTRL command whose only effect on the sticky bits is CLR. -/
theorem sticky_of_clearIf {i : Instr} {clr : Bool} {e : StatusEvent} {s t : State} (hi : ClearsSticky i ↔ clr = true)
    (ht : sticky e t = sticky e (clearIf clr s)) :
    (¬ ClearsSticky i → sticky e s = true → sticky e t = true) ∧
      (ClearsSticky i → sticky e t = true → e = .badCmd ∧ i = .ctrlRsvd true) := by
  rw [hi, ht]
  cases clr with
  | false => exact ⟨fun _ he => he, fun hc => absurd hc Bool.false_ne_true⟩
  | true => exact ⟨fun hc => absurd rfl hc, fun _ he => by simp at he⟩

/-- Settles O26: each effect either keeps the sticky bits and perhaps raises one, or clears them first. -/
theorem stickyBitsStayUntilCleared : Obligations.StickyBitsStayUntilCleared := by
  intro i s t e hwf h
  cases effect_of_exec hwf h with
  | accepted re im _ => exact ⟨fun _ => sticky_acceptSample_of_sticky, False.elim⟩
  | notAccepted re im _ => exact ⟨fun _ he => by rwa [sticky_answer], False.elim⟩
  | stored a v r => exact ⟨fun _ he => by rwa [sticky_set_cfg], False.elim⟩
  | writeRefused a v _ => exact ⟨fun _ he => by rw [sticky_raise, he, Bool.or_true], False.elim⟩
  | answered a w => exact ⟨fun _ he => by rwa [sticky_answer], False.elim⟩
  | readRefused a _ => exact ⟨fun _ he => by rw [sticky_answer, sticky_raise, he, Bool.or_true], False.elim⟩
  | none clr => exact sticky_of_clearIf Iff.rfl rfl
  | started clr _ => exact sticky_of_clearIf Iff.rfl (sticky_startedFrom _ _)
  | startFailed clr _ => exact sticky_of_clearIf Iff.rfl ((sticky_failStart _ _ _).trans (sticky_stop _ _))
  | stopped clr => exact sticky_of_clearIf Iff.rfl (sticky_stop _ _)
  | reserved clr =>
    rw [sticky_raise]
    cases clr with
    | false => exact ⟨fun _ he => by rw [clearIf_false, he, Bool.or_true], fun hc => by cases hc⟩
    | true => exact ⟨fun hc => absurd rfl hc, fun _ he => ⟨by simpa using he, rfl⟩⟩

theorem sticky_of_sticky_clearIf {e : StatusEvent} {clr : Bool} {s : State} (h : sticky e (clearIf clr s) = true) :
    sticky e s = true := by
  cases clr with
  | false => exact h
  | true => simp at h

/-- What raised an event: an accepted SAMPLE, or the command or access that raises it by name. -/
theorem cause_of_raised {e : StatusEvent} {i : Instr} {s t : State} (h : Effect s i t) (h0 : sticky e s = false)
    (h1 : sticky e t = true) :
    (∃ re im, i = .sample re im ∧ s.run = true ∧ t = acceptSample ⟨re, im⟩ s) ∨
      (e = .badCmd ∧ ∃ clr, i = .ctrlRsvd clr) ∨
      (e = .badAccess ∧ ((∃ a, i = .read a ∧ ¬ Mapped a.toNat) ∨
        (∃ a v, i = .write a v ∧ (¬ Mapped a.toNat ∨ ReadOnly a.toNat)))) := by
  have hkept {P : Prop} (hs : sticky e s = true) : P := absurd (h0.symm.trans hs) Bool.false_ne_true
  cases h with
  | accepted re im hr => exact .inl ⟨re, im, rfl, hr, rfl⟩
  | notAccepted re im _ => exact hkept (by rwa [sticky_answer] at h1)
  | stored a v r => exact hkept (by rwa [sticky_set_cfg] at h1)
  | writeRefused a v ha =>
    rw [sticky_raise, h0, Bool.or_false, decide_eq_true_eq] at h1
    exact .inr (.inr ⟨h1, .inr ⟨a, v, rfl, ha⟩⟩)
  | answered a w => exact hkept (by rwa [sticky_answer] at h1)
  | readRefused a ha =>
    rw [sticky_answer, sticky_raise, h0, Bool.or_false, decide_eq_true_eq] at h1
    exact .inr (.inr ⟨h1, .inl ⟨a, rfl, ha⟩⟩)
  | none clr => exact hkept (sticky_of_sticky_clearIf h1)
  | started clr _ => exact hkept (sticky_of_sticky_clearIf (by rwa [sticky_startedFrom] at h1))
  | startFailed clr _ => exact hkept (sticky_of_sticky_clearIf (by rwa [sticky_failStart, sticky_stop] at h1))
  | stopped clr => exact hkept (sticky_of_sticky_clearIf (by rwa [sticky_stop] at h1))
  | reserved clr =>
    rw [sticky_raise, Bool.or_eq_true, decide_eq_true_eq] at h1
    exact h1.elim (fun he => .inr (.inl ⟨he, clr, rfl⟩)) (fun hs => hkept (sticky_of_sticky_clearIf hs))

/-- Settles O27: `cause_of_raised`, and the equations of an accepted SAMPLE's own three events. -/
theorem eventsHaveTheirCauses : Obligations.EventsHaveTheirCauses := by
  intro i s t hwf h
  have cause {e : StatusEvent} := cause_of_raised (e := e) (effect_of_exec hwf h)
  refine ⟨fun h0 h1 => ?_, fun h0 h1 => ?_, fun h0 h1 => ?_, fun h0 h1 => ?_, fun h0 h1 => ?_⟩
  · rcases cause (e := .nfIn) h0 h1 with ⟨re, im, rfl, hr, rfl⟩ | ⟨⟨⟩, -⟩ | ⟨⟨⟩, -⟩
    exact ⟨re, im, rfl, hr, by simpa [h0] using h1⟩
  · rcases cause (e := .nfMf) h0 h1 with ⟨re, im, rfl, hr, rfl⟩ | ⟨⟨⟩, -⟩ | ⟨⟨⟩, -⟩
    exact ⟨re, im, rfl, hr, by simpa [h0] using h1⟩
  · rcases cause (e := .nfErr) h0 h1 with ⟨re, im, rfl, hr, rfl⟩ | ⟨⟨⟩, -⟩ | ⟨⟨⟩, -⟩
    by_cases hs : IsStrobe s
    · rw [acceptSample_nfErr_strobe hs, h0] at h1
      exact ⟨re, im, rfl, hr, hs, by simpa using h1⟩
    · rw [acceptSample_nfErr_between hs, h0] at h1
      cases h1
  · rcases cause (e := .badCmd) h0 h1 with ⟨re, im, rfl, hr, rfl⟩ | ⟨-, hi⟩ | ⟨⟨⟩, -⟩
    · simp [h0] at h1
    · exact hi
  · rcases cause (e := .badAccess) h0 h1 with ⟨re, im, rfl, hr, rfl⟩ | ⟨⟨⟩, -⟩ | ⟨-, hi⟩
    · simp [h0] at h1
    · exact hi

/-! ### Events, RUN and the two configurations (10_state.md R22, R26, 40_control.md R136) -/

@[simp] theorem start_events (s : State) : (start s).events = s.events := by
  rcases start_cases s with ⟨-, e⟩ | ⟨-, e⟩ <;> rw [e] <;> rfl

theorem ctrlWrite_events (v : Word) (s : State) : (ctrlWrite v s).events = s.events := by
  unfold ctrlWrite ctrlCommand
  split_ifs <;> simp

theorem memWrite_events (a : Addr) (v : Word) (s : State) : (memWrite a v s).events = s.events := by
  rcases memWrite_cases a v s with ⟨-, e⟩ | ⟨r, -, -, e⟩ | ⟨r, -, -, e⟩ | ⟨r, -, -, e⟩
  · rw [e, raise_events]
  · rw [e, raise_events]
  · rw [e]
  · rw [e, ctrlWrite_events]

/-- Settles O28: every other transaction, the ill-formed write at CTRL too, leaves the presented events as they were. -/
theorem onlyAcceptedSamplesEmit : Obligations.OnlyAcceptedSamplesEmit := by
  intro i s t h hne
  have hother {u : State} (hu : exec i s = .next u) : u.events ≠ s.events := Host.Outcome.next.inj (h.symm.trans hu) ▸ hne
  cases i with
  | sample re im =>
    cases hr : s.run with
    | true => exact ⟨re, im, rfl, rfl⟩
    | false => exact (hother (stoppedSampleIsNotAccepted s re im hr) rfl).elim
  | write a v => exact absurd (memWrite_events a v s) (hother rfl)
  | read a =>
    have hread : (memRead a s).2.events = s.events := by
      rcases memRead_cases a s with ⟨-, e⟩ | ⟨r, -, e⟩ <;> rw [e]
      exact raise_events _ _
    exact (hother (u := answer _ (memRead a s).2) rfl hread).elim
  | ctrlNone clr => exact absurd (clearIf_events clr s) (hother rfl)
  | ctrlStart clr => exact absurd ((start_events _).trans (clearIf_events clr s)) (hother rfl)
  | ctrlStop clr => exact (hother (exec_ctrlStop clr s) (clearIf_events clr s)).elim
  | ctrlRsvd clr => exact absurd ((raise_events _ _).trans (clearIf_events clr s)) (hother rfl)

@[simp] theorem acceptSample_cfg (x : Cplx) (s : State) : (acceptSample x s).cfg = s.cfg := by
  rcases acceptSample_cases x s with h | h <;> simp [h]

@[simp] theorem acceptSample_act (x : Cplx) (s : State) : (acceptSample x s).act = s.act := by
  rcases acceptSample_cases x s with h | h <;> simp [h]

@[simp] theorem acceptSample_run (x : Cplx) (s : State) : (acceptSample x s).run = s.run := by
  rcases acceptSample_cases x s with h | h <;> simp [h]

/-- Settles O29: RUN is written by the three effects of START and STOP alone. -/
theorem runChangesOnlyByStartAndStop : Obligations.RunChangesOnlyByStartAndStop := by
  intro i s t hwf h hne
  cases effect_of_exec hwf h with
  | started clr hv => exact .inl ⟨rfl, clr, rfl, hv⟩
  | startFailed clr hv => exact .inr ⟨rfl, .inr ⟨clr, rfl, hv⟩⟩
  | stopped clr => exact .inr ⟨rfl, .inl ⟨clr, rfl⟩⟩
  | _ => simp at hne

/-- Settles O30: the active configuration is written by a START that passes, the programmed one by a stored WRITE. -/
theorem configurationMovesOnlyByWriteAndStart : Obligations.ConfigurationMovesOnlyByWriteAndStart := by
  intro i s t hwf h
  cases effect_of_exec hwf h with
  | started clr hv =>
    refine ⟨fun _ => ⟨clr, rfl, hv, ?_⟩, fun hne => ?_⟩
    · rw [startedFrom_act, clearIf_cfg]
    · simp at hne
  | stored a v r => exact ⟨fun hne => absurd rfl hne, fun _ => ⟨a, v, rfl⟩⟩
  | _ => simp

end Sys2Proof.Machine
end

section
/-! PROOF. SAMPLE (41_demodulator.md R160 to R186): the whole next state between strobes, the loops' values and the events
at a strobe, and what a SAMPLE reads and leaves alone. -/

namespace Sys2Proof.Machine

open Sys2Proof.Safety

/-! ### The loops' values at a strobe (41_demodulator.md R176 to R178) -/

/-- The phase discriminant that the loops use, and the timing discriminant (41_demodulator.md R175). -/
def phaseError (s : State) : F32 := discr s.act.regs.errClamp (detect s).ep

/-- The timing discriminant that the loops use (41_demodulator.md R175). -/
def timingError (s : State) : F32 := discr s.act.regs.errClamp (detect s).et

theorem strobe_nu (s : State) :
    (strobe s).nu = F32.clamp (F32.add s.nu (F32.mul s.act.regs.loopOmega (phaseError s)))
      (F32.neg s.act.regs.freqLimit) s.act.regs.freqLimit := by
  rw [strobe_eq, extract_nu, emitSymbol_nu, phaseError]

theorem strobe_theta (s : State) :
    (strobe s).theta = F32.add s.theta (F32.mul s.act.regs.loopMu (phaseError s)) := by
  rw [strobe_eq, extract_theta, emitSymbol_theta, phaseError]

theorem strobe_tacc (s : State) : (strobe s).tacc = taccUpdate (timingError s) s := by
  rw [strobe_eq, extract_tacc, emitSymbol_tacc, timingError]

theorem strobe_tau (s : State) :
    (strobe s).tau = F32.add s.tau (nextPeriod (timingError s) (taccUpdate (timingError s) s) s.act) := by
  rw [strobe_eq, extract_tau, emitSymbol_tau, timingError]

theorem strobe_mufrac (s : State) : (strobe s).mufrac = F32.sub F32.zero s.tau := by
  rw [strobe_eq, extract_mufrac, emitSymbol_mufrac]
  rfl

theorem advanceNco_theta (s : State) : (advanceNco s).theta = F32.wrap (F32.add s.theta s.nu) := rfl

/-! ### Between strobes, and what an accepted SAMPLE leaves alone -/

theorem exec_sample_running {s : State} (i q : F32) (h : s.run = true) :
    exec (.sample i q) s = .next (acceptSample ⟨i, q⟩ s) := execSample_running i q h

/-- Settles O32: the counted-down state with the phase advanced. -/
theorem sampleBetweenStrobes : Obligations.SampleBetweenStrobes := by
  intro s i q hr hs
  rw [exec_sample_running i q hr, acceptSample_between hs]
  rfl

@[simp] theorem acceptSample_cfgErr (x : Cplx) (s : State) : (acceptSample x s).cfgErr = s.cfgErr := by
  rcases acceptSample_cases x s with h | h <;> simp [h]

@[simp] theorem acceptSample_cfgCode (x : Cplx) (s : State) : (acceptSample x s).cfgCode = s.cfgCode := by
  rcases acceptSample_cases x s with h | h <;> simp [h]

@[simp] theorem acceptSample_inbox (x : Cplx) (s : State) : (acceptSample x s).inbox = s.inbox := by
  rcases acceptSample_cases x s with h | h <;> simp [h]

@[simp] theorem acceptSample_result (x : Cplx) (s : State) : (acceptSample x s).result = s.result := by
  rcases acceptSample_cases x s with h | h <;> simp [h]

/-- Settles O34: strobe or not, by the stages' frame lemmas; between strobes only the counted-down fields and the phase
move. -/
theorem sampleFrame : Obligations.SampleFrame := by
  intro s t i q hr h
  obtain rfl := eq_acceptSample_of_exec hr h
  refine ⟨acceptSample_cfg _ s, acceptSample_act _ s, acceptSample_run _ s, acceptSample_cfgErr _ s,
    acceptSample_cfgCode _ s, acceptSample_badCmd _ s, acceptSample_badAccess _ s, acceptSample_inbox _ s,
    acceptSample_result _ s, fun hs => ?_⟩
  rw [acceptSample_between hs]
  exact ⟨rfl, rfl, rfl, rfl, rfl, rfl, rfl, rfl, rfl, rfl, rfl, rfl, rfl, rfl⟩

/-! ### The extractor and the packer read their own part of the state (42_symbol_extractor.md R210) -/

/-- Two states that agree on what the extractor and the packer read and write. -/
structure SameExtractor (s t : State) : Prop where
  act : t.act = s.act
  wreg : t.wreg = s.wreg
  fill : t.fill = s.fill
  miss : t.miss = s.miss
  sync : t.sync = s.sync
  pol : t.pol = s.pol
  stderr : t.stderr = s.stderr
  pkCount : t.pkCount = s.pkCount
  pkBuf : t.pkBuf = s.pkBuf

theorem SameExtractor.lockUpdate {s t : State} (h : SameExtractor s t) (m : Match) :
    SameExtractor (lockUpdate m s) (lockUpdate m t) := by
  obtain ⟨ha, hw, hf, hm, hs, hp, he, hc, hb⟩ := h
  unfold Machine.lockUpdate
  rw [ha, hs, hm]
  split_ifs
  · exact ⟨rfl, hw, hf, rfl, rfl, rfl, he, hc, hb⟩
  · exact ⟨rfl, hw, hf, rfl, rfl, hp, he, hc, hb⟩
  · exact ⟨rfl, hw, hf, rfl, rfl, hp, he, hc, hb⟩
  · exact ⟨ha, hw, hf, hm, hs, hp, he, hc, hb⟩

theorem SameExtractor.evaluateWindow {s t : State} (h : SameExtractor s t) :
    SameExtractor (evaluateWindow s) (evaluateWindow t) := by
  have hl := h.lockUpdate (correlate s.act s.wreg)
  unfold Machine.evaluateWindow
  rw [h.act, h.wreg]
  obtain ⟨ha, hw, hf, hm, hs, hp, he, hc, hb⟩ := hl
  exact ⟨ha, hw, hf, hm, hs, hp, by simp only [ha, he], hc, hb⟩

theorem SameExtractor.shifted {s t : State} (h : SameExtractor s t) (braw : Bool) :
    SameExtractor (shifted braw s) (shifted braw t) := by
  obtain ⟨ha, hw, hf, hm, hs, hp, he, hc, hb⟩ := h
  unfold Machine.shifted fillUpdate
  rw [ha, hw, hf]
  exact ⟨rfl, rfl, rfl, hm, hs, hp, he, hc, hb⟩

theorem SameExtractor.updateWindow {s t : State} (h : SameExtractor s t) (braw : Bool) :
    SameExtractor (updateWindow braw s) (updateWindow braw t) := by
  have hfill : fillUpdate t = fillUpdate s := (h.shifted braw).fill
  by_cases hfull : (fillUpdate s).toNat = s.act.regs.uwLen.toNat
  · rw [updateWindow_of_full hfull, updateWindow_of_full (by rw [hfill, h.act, hfull])]
    exact (h.shifted braw).evaluateWindow
  · rw [updateWindow_of_not_full hfull, updateWindow_of_not_full (by rwa [hfill, h.act])]
    exact h.shifted braw

theorem SameExtractor.emit {s t : State} (h : SameExtractor s t) (e : OutEvent) :
    SameExtractor (emit e s) (emit e t) := by
  obtain ⟨ha, hw, hf, hm, hs, hp, he, hc, hb⟩ := h
  exact ⟨ha, hw, hf, hm, hs, hp, he, hc, hb⟩

theorem SameExtractor.pack {s t : State} (h : SameExtractor s t) (b : Byte) :
    SameExtractor (pack b s) (pack b t) := by
  obtain ⟨ha, hw, hf, hm, hs, hp, he, hc, hb⟩ := h
  unfold Machine.pack appendByte
  rw [ha, hc, hb]
  split_ifs
  · exact ⟨ha, hw, hf, hm, hs, hp, he, rfl, rfl⟩
  · exact ⟨rfl, hw, hf, hm, hs, hp, he, rfl, rfl⟩

/-- What a symbol makes of the extractor and the packer depends on them alone. -/
theorem SameExtractor.extract {s t : State} (h : SameExtractor s t) (neg : Bool) :
    SameExtractor (extract neg s) (extract neg t) := by
  unfold Machine.extract
  rw [h.pol]
  exact ((h.updateWindow (!neg)).emit _).pack _

/-- A strobe moves the extractor and the packer as `Extract(neg)` does from the state before the sample. -/
theorem sameExtractor_strobe (x : Cplx) (s : State) :
    SameExtractor (extract (detect (countedDown x s)).neg s) (strobe (countedDown x s)) := by
  rw [strobe_eq]
  refine SameExtractor.extract (s := s) ?_ _
  exact ⟨rfl, rfl, rfl, rfl, rfl, rfl, rfl, rfl, rfl⟩

/-! ### The events of a SAMPLE (41_demodulator.md R180 to R182) -/

theorem present_of_number {n : Nat} {x : F32} (h : F32.isNaN x = false) : present n x = x :=
  if_neg (by rw [h]; exact Bool.false_ne_true)

theorem isNaN_present {n : Nat} {x : F32} (h : F32.isNaN x = true) : F32.isNaN (present n x) = true := by
  rw [present, if_pos h]
  exact F32.isNaN_nanOf _

/-- A strobe presents its symbol, then its byte, then nothing or one group. -/
theorem strobe_events_cases (s : State) :
    let sym := OutEvent.symOut (present s.nanDraws (detect s).yOn.i) (present (s.nanDraws + 1) (detect s).yOn.q)
    let bit := OutEvent.bitOut (outByte (!(detect s).neg) s.pol)
    (strobe s).events = s.events ++ [sym, bit] ∨ ∃ bytes, (strobe s).events = s.events ++ [sym, bit, .groupOut bytes] := by
  intro sym bit
  rw [strobe_eq]
  rcases extract_events_cases (detect s).neg (emitSymbol (detect s).yOn _) with h | ⟨bytes, h⟩
  · exact .inl (h.trans (List.append_assoc s.events [sym] [bit]))
  · exact .inr ⟨bytes, h.trans (List.append_assoc s.events [sym] [bit, .groupOut bytes])⟩

theorem acceptSample_events_between {x : Cplx} {s : State} (h : ¬ IsStrobe s) : (acceptSample x s).events = s.events := by
  rw [acceptSample_between h, advanceNco_events, countedDown_events]

theorem acceptSample_events_strobe {x : Cplx} {s : State} (h : IsStrobe s) :
    (acceptSample x s).events = (strobe (countedDown x s)).events := by
  rw [acceptSample_strobe h, advanceNco_events]

/-- Settles O36: the events of the strobe, or none between strobes. -/
theorem sampleEventsComeInOrder : Obligations.SampleEventsComeInOrder := by
  intro s t i q hr h
  obtain rfl := eq_acceptSample_of_exec hr h
  by_cases hs : IsStrobe s
  · rw [acceptSample_events_strobe hs]
    rcases strobe_events_cases (countedDown ⟨i, q⟩ s) with h | ⟨bytes, h⟩
    · exact .inr ⟨hs, _, _, _, .inl h⟩
    · exact .inr ⟨hs, _, _, _, .inr ⟨bytes, h⟩⟩
  · exact .inl ⟨hs, acceptSample_events_between hs⟩

/-- The byte of a strobe, as an exclusive or of the decision and the polarity. -/
theorem outByte_eq_bne (braw pol : Bool) : outByte braw pol = if braw != pol then 1#8 else 0#8 := by
  cases braw <;> cases pol <;> rfl

/-- The events of a strobe, with the ones after the byte left open. -/
theorem strobe_events (s : State) :
    ∃ rest, (strobe s).events = s.events ++
      [.symOut (present s.nanDraws (detect s).yOn.i) (present (s.nanDraws + 1) (detect s).yOn.q),
        .bitOut (outByte (!(detect s).neg) s.pol)] ++ rest := by
  rcases strobe_events_cases s with h | ⟨bytes, h⟩
  · exact ⟨[], by rw [h, List.append_nil]⟩
  · exact ⟨[.groupOut bytes], by rw [h, List.append_assoc]; rfl⟩

/-- Settles O33: each field by its equation at a strobe of the counted-down state, the extractor and the packer by
`sameExtractor_strobe`, the events by `strobe_events`. -/
theorem sampleAtStrobe : Obligations.SampleAtStrobe := by
  intro s i q hr hs
  refine ⟨_, exec_sample_running i q hr, ?_⟩
  have hnfErr := acceptSample_nfErr_strobe (x := ⟨i, q⟩) hs
  rw [acceptSample_strobe hs] at hnfErr ⊢
  dsimp only
  obtain ⟨-, hw, hf, hm, hy, hp, he, hc, hb⟩ := sameExtractor_strobe ⟨i, q⟩ s
  obtain ⟨rest, hevents⟩ := strobe_events (countedDown ⟨i, q⟩ s)
  refine ⟨?_, ?_, ?_, ?_, ?_, ?_, ?_, ?_⟩
  · simp only [advanceNco_nu, strobe_nu, phaseError, countedDown_act, countedDown_nu]
  · simp only [advanceNco_theta, advanceNco_nu, strobe_theta, phaseError, countedDown_act, countedDown_theta]
  · simp only [advanceNco_tacc, strobe_tacc, taccUpdate, timingError, countedDown_act, countedDown_tacc]
  · simp only [advanceNco_tau, advanceNco_tacc, strobe_tau, strobe_tacc, nextPeriod, timingError, countedDown_act,
      countedDown_tau]
  · rw [advanceNco_mufrac, strobe_mufrac, countedDown_tau]
  · rw [hnfErr, Bool.or_assoc]
  · rw [advanceNco_wreg, advanceNco_fill, advanceNco_miss, advanceNco_sync, advanceNco_pol, advanceNco_stderr,
      advanceNco_pkCount, advanceNco_pkBuf]
    exact ⟨hw, hf, hm, hy, hp, he, hc, hb⟩
  · rw [← outByte_eq_bne, advanceNco_events, hevents]
    exact ⟨_, _, rest, rfl, present_of_number, isNaN_present, present_of_number, isNaN_present⟩

/-! ### A SAMPLE does not read the programmed configuration (20_memory.md R76, 40_control.md R134) -/

/-- The state with another programmed configuration. -/
def State.withCfg (s : State) (c : CfgRegs) : State := { s with cfg := c }

theorem pack_withCfg (b : Byte) (c : CfgRegs) (s : State) : pack b (s.withCfg c) = (pack b s).withCfg c := by
  unfold pack
  by_cases h : s.pkCount.toNat + 1 = s.act.regs.groupSize.toNat
  · rw [if_pos h, if_pos (show (s.withCfg c).pkCount.toNat + 1 = (s.withCfg c).act.regs.groupSize.toNat from h)]
    rfl
  · rw [if_neg h, if_neg (show (s.withCfg c).pkCount.toNat + 1 ≠ (s.withCfg c).act.regs.groupSize.toNat from h)]
    rfl

theorem lockUpdate_withCfg (m : Match) (c : CfgRegs) (s : State) :
    lockUpdate m (s.withCfg c) = (lockUpdate m s).withCfg c := by
  rcases lockUpdate_cases m s with ⟨h, e⟩ | ⟨h, hs, e⟩ | ⟨h, hs, hn, e⟩ | ⟨h, hs, hn, e⟩ <;> rw [e]
  · exact lockUpdate_of_reached (s := s.withCfg c) h
  · exact lockUpdate_of_unlocked (s := s.withCfg c) (Nat.not_le.2 h) hs
  · exact lockUpdate_of_last_miss (s := s.withCfg c) (Nat.not_le.2 h) hs hn
  · exact lockUpdate_of_counted (s := s.withCfg c) (Nat.not_le.2 h) hs hn

theorem evaluateWindow_withCfg (c : CfgRegs) (s : State) :
    evaluateWindow (s.withCfg c) = (evaluateWindow s).withCfg c := by
  unfold evaluateWindow
  dsimp only
  rw [lockUpdate_withCfg]
  rfl

theorem updateWindow_withCfg (braw : Bool) (c : CfgRegs) (s : State) :
    updateWindow braw (s.withCfg c) = (updateWindow braw s).withCfg c := by
  by_cases hfull : (fillUpdate s).toNat = s.act.regs.uwLen.toNat
  · rw [updateWindow_of_full hfull, updateWindow_of_full (s := s.withCfg c) hfull]
    exact evaluateWindow_withCfg c (shifted braw s)
  · rw [updateWindow_of_not_full hfull, updateWindow_of_not_full (s := s.withCfg c) hfull]
    rfl

theorem extract_eq (neg : Bool) (s : State) :
    extract neg s =
      pack (outByte (!neg) s.pol) (emit (.bitOut (outByte (!neg) s.pol)) (updateWindow (!neg) s)) := rfl

theorem extract_withCfg (neg : Bool) (c : CfgRegs) (s : State) :
    extract neg (s.withCfg c) = (extract neg s).withCfg c := by
  rw [extract_eq, extract_eq, updateWindow_withCfg, ← pack_withCfg]
  rfl

theorem detect_withCfg (c : CfgRegs) (s : State) : detect (s.withCfg c) = detect s := rfl

theorem strobe_withCfg (c : CfgRegs) (s : State) : strobe (s.withCfg c) = (strobe s).withCfg c := by
  rw [strobe_eq, strobe_eq, ← extract_withCfg, detect_withCfg]
  rfl

theorem countedDown_withCfg (x : Cplx) (c : CfgRegs) (s : State) :
    countedDown x (s.withCfg c) = (countedDown x s).withCfg c := rfl

theorem advanceNco_withCfg (c : CfgRegs) (s : State) : advanceNco (s.withCfg c) = (advanceNco s).withCfg c := rfl

/-- The programmed configuration is carried through an accepted SAMPLE. -/
theorem acceptSample_withCfg (x : Cplx) (c : CfgRegs) (s : State) :
    acceptSample x (s.withCfg c) = (acceptSample x s).withCfg c := by
  by_cases hs : IsStrobe s
  · rw [acceptSample_strobe hs, acceptSample_strobe (s := s.withCfg c) hs, countedDown_withCfg, strobe_withCfg,
      advanceNco_withCfg]
  · rw [acceptSample_between hs, acceptSample_between (s := s.withCfg c) hs, countedDown_withCfg, advanceNco_withCfg]

/-- Settles O15: no stage of an accepted SAMPLE reads the programmed configuration. -/
theorem datapathIgnoresProgrammedConfiguration : Obligations.DatapathIgnoresProgrammedConfiguration := by
  intro s t c i q h
  change exec (.sample i q) (s.withCfg c) = .next (t.withCfg c)
  by_cases hr : s.run = true
  · obtain rfl := eq_acceptSample_of_exec hr h
    rw [exec_sample_running (s := s.withCfg c) i q hr, acceptSample_withCfg]
  · have hr : s.run = false := Bool.eq_false_of_not_eq_true hr
    obtain rfl := Host.Outcome.next.inj ((stoppedSampleIsNotAccepted s i q hr).symm.trans h)
    exact stoppedSampleIsNotAccepted (s.withCfg c) i q hr

/-! ### The loops do not read the extractor (41_demodulator.md R186) -/

/-- What R186 says the loops do not read. -/
structure ExtractorPart where
  patLo : Word
  patHi : Word
  mask : BitVec 64
  wreg : BitVec 64
  fill : BitVec 7
  miss : BitVec 32
  sync : Bool
  pol : Bool
  stderr : F32
  pkCount : BitVec 13
  pkBuf : List Byte

/-- The state with another unique word, window mask, extractor and packer. -/
def State.withExtractor (s : State) (e : ExtractorPart) : State :=
  { s with
    act := { s.act with regs := { s.act.regs with uwPatLo := e.patLo, uwPatHi := e.patHi }, maskN := e.mask }
    wreg := e.wreg, fill := e.fill, miss := e.miss, sync := e.sync, pol := e.pol, stderr := e.stderr
    pkCount := e.pkCount, pkBuf := e.pkBuf }

theorem countedDown_withExtractor (x : Cplx) (e : ExtractorPart) (s : State) :
    countedDown x (s.withExtractor e) = (countedDown x s).withExtractor e := rfl

theorem detect_withExtractor (e : ExtractorPart) (s : State) : detect (s.withExtractor e) = detect s := rfl

theorem phaseError_withExtractor (e : ExtractorPart) (s : State) : phaseError (s.withExtractor e) = phaseError s := by
  rw [phaseError, detect_withExtractor]
  rfl

theorem timingError_withExtractor (e : ExtractorPart) (s : State) :
    timingError (s.withExtractor e) = timingError s := by
  rw [timingError, detect_withExtractor]
  rfl

/-- Two states with the same loop registers and delay lines. -/
structure SameLoops (s t : State) : Prop where
  theta : t.theta = s.theta
  nu : t.nu = s.nu
  tacc : t.tacc = s.tacc
  tau : t.tau = s.tau
  mufrac : t.mufrac = s.mufrac
  xl : t.xl = s.xl
  dl : t.dl = s.dl

theorem sameLoops_strobe (e : ExtractorPart) (s : State) : SameLoops (strobe s) (strobe (s.withExtractor e)) where
  theta := by rw [strobe_theta, strobe_theta, phaseError_withExtractor]; rfl
  nu := by rw [strobe_nu, strobe_nu, phaseError_withExtractor]; rfl
  tacc := by rw [strobe_tacc, strobe_tacc, timingError_withExtractor]; rfl
  tau := by rw [strobe_tau, strobe_tau, timingError_withExtractor]; rfl
  mufrac := by rw [strobe_mufrac, strobe_mufrac]; rfl
  xl := by rw [strobe_xl, strobe_xl]; rfl
  dl := by rw [strobe_dl, strobe_dl]; rfl

theorem SameLoops.advanceNco {s t : State} (h : SameLoops s t) : SameLoops (advanceNco s) (advanceNco t) := by
  obtain ⟨hth, hnu, hta, htu, hmu, hx, hd⟩ := h
  exact ⟨by rw [advanceNco_theta, advanceNco_theta, hth, hnu], hnu, hta, htu, hmu, hx, hd⟩

theorem sameLoops_acceptSample (x : Cplx) (e : ExtractorPart) (s : State) :
    SameLoops (acceptSample x s) (acceptSample x (s.withExtractor e)) := by
  by_cases hs : IsStrobe s
  · rw [acceptSample_strobe hs, acceptSample_strobe (s := s.withExtractor e) hs, countedDown_withExtractor]
    exact (sameLoops_strobe e (countedDown x s)).advanceNco
  · rw [acceptSample_between hs, acceptSample_between (s := s.withExtractor e) hs, countedDown_withExtractor]
    exact SameLoops.advanceNco ⟨rfl, rfl, rfl, rfl, rfl, rfl, rfl⟩

/-- Settles O44: strobe or not, every stage of the loops is unmoved by `withExtractor`. -/
theorem loopsIgnoreTheExtractor : Obligations.LoopsIgnoreTheExtractor := by
  intro s t i q patLo patHi mask wreg fill miss sync pol stderr pkCount pkBuf h
  let e : ExtractorPart := ⟨patLo, patHi, mask, wreg, fill, miss, sync, pol, stderr, pkCount, pkBuf⟩
  change ∃ t', exec (.sample i q) (s.withExtractor e) = .next t' ∧ _
  by_cases hr : s.run = true
  · obtain rfl := eq_acceptSample_of_exec hr h
    obtain ⟨hth, hnu, hta, htu, hmu, hx, hd⟩ := sameLoops_acceptSample ⟨i, q⟩ e s
    exact ⟨_, exec_sample_running (s := s.withExtractor e) i q hr, hth, hnu, hta, htu, hmu, hx, hd⟩
  · have hr : s.run = false := Bool.eq_false_of_not_eq_true hr
    obtain rfl := Host.Outcome.next.inj ((stoppedSampleIsNotAccepted s i q hr).symm.trans h)
    exact ⟨_, stoppedSampleIsNotAccepted (s.withExtractor e) i q hr, rfl, rfl, rfl, rfl, rfl, rfl, rfl⟩

end Sys2Proof.Machine
end

section
/-! PROOF. The control invariants (10_state.md R27, R37 to R40, 42_symbol_extractor.md R207, 70_reset_and_hazards.md R286):
every step keeps them; and the groups that a run delivers (43_symbol_packer.md R230 to R236). -/

namespace Sys2Proof.Machine

open Sys2Proof.Safety

/-! ### The packer (43_symbol_packer.md R230 to R232) -/

/-- A running block's group has at most 8192 bytes, so a count below it fits PK_COUNT. -/
theorem pkCount_succ_toNat {s : State} (hc : Configured s) (hr : s.run = true)
    (h : s.pkCount.toNat + 1 < s.act.regs.groupSize.toNat) :
    (BitVec.ofNat 13 (s.pkCount.toNat + 1)).toNat = s.pkCount.toNat + 1 := by
  obtain ⟨-, hsize⟩ := startCheck_of_valid (hc hr).1 13 (by omega) (by omega)
  rw [BitVec.toNat_ofNat]
  omega

/-- Settles O49: the two outcomes of `pack_cases`; there is room for the byte, so one of them holds. -/
theorem packAppendsThenDelivers : Obligations.PackAppendsThenDelivers := by
  rintro b s ⟨hconf, ⟨hlive, -, hroom⟩, -, -⟩ hr
  have hlt := hroom hr
  refine ⟨fun h => ?_, fun h => ?_, by omega⟩
  · rcases pack_cases b hlive with ⟨hfull, -⟩ | ⟨-, e⟩
    · omega
    · rw [e]
      exact ⟨pkCount_succ_toNat hconf hr h, rfl⟩
  · rcases pack_cases b hlive with ⟨-, e⟩ | ⟨hnot, -⟩
    · exact ⟨e, by rw [List.length_append, hlive]; exact h⟩
    · exact absurd h hnot

theorem packerSound_pack {b : Byte} {s : State} (hc : Configured s) (h : PackerSound s) (hr : s.run = true) :
    PackerSound (pack b s) := by
  obtain ⟨hlive, -, hroom⟩ := h
  have hlt := hroom hr
  have hstop : (pack b s).run = false → (pack b s).pkCount = 0#13 := fun h => by
    rw [pack_run, hr] at h
    cases h
  rcases pack_cases b hlive with ⟨hfull, e⟩ | ⟨hnot, e⟩
  · refine ⟨by rw [e]; rfl, hstop, fun _ => ?_⟩
    have hgoal : 0 < s.act.regs.groupSize.toNat := by omega
    rw [e]
    exact hgoal
  · have hcount := pkCount_succ_toNat hc hr (by omega)
    refine ⟨?_, hstop, fun _ => ?_⟩
    · rw [e, List.length_append, hlive]
      exact hcount.symm
    · have hgoal : (BitVec.ofNat 13 (s.pkCount.toNat + 1)).toNat < s.act.regs.groupSize.toNat := by omega
      rw [e]
      exact hgoal

/-! ### The extractor (42_symbol_extractor.md R203, R207) -/

/-- An evaluated window keeps MISS below UNLOCK_N, and at 0 while unlocked. -/
theorem miss_evaluateWindow {s : State} (h1 : 1 ≤ s.act.regs.unlockN.toNat)
    (hm : s.miss.toNat < s.act.regs.unlockN.toNat) (hu : s.sync = false → s.miss = 0#32) :
    (evaluateWindow s).miss.toNat < s.act.regs.unlockN.toNat ∧
      ((evaluateWindow s).sync = false → (evaluateWindow s).miss = 0#32) := by
  rw [evaluateWindow_miss, evaluateWindow_sync]
  rcases lockUpdate_cases (correlate s.act s.wreg) s with ⟨-, e⟩ | ⟨-, -, e⟩ | ⟨-, -, -, e⟩ | ⟨-, hs, hn, e⟩ <;> rw [e]
  · exact ⟨h1, fun _ => rfl⟩
  · exact ⟨hm, hu⟩
  · exact ⟨h1, fun _ => rfl⟩
  · exact ⟨(miss_succ_toNat hn).trans_lt hn, fun h => absurd (hs.symm.trans h) (by decide)⟩

theorem lockSound_updateWindow {braw : Bool} {s : State} (hc : Configured s) (h : LockSound s) (hr : s.run = true) :
    LockSound (updateWindow braw s) := by
  obtain ⟨hf, hm, hu, hfill⟩ := h
  obtain ⟨-, hlen, -⟩ := startCheck_of_valid (hc hr).1 10 (by omega) (by omega)
  have h1 : 1 ≤ s.act.regs.unlockN.toNat := startCheck_of_valid (hc hr).1 11 (by omega) (by omega)
  have hnew := fillUpdate_toNat hlen
  have hle := hf hr
  by_cases hfull : (fillUpdate s).toNat = s.act.regs.uwLen.toNat
  · obtain ⟨hm', hu'⟩ := miss_evaluateWindow (s := shifted braw s) h1 (hm hr) (hu hr)
    rw [updateWindow_of_full hfull]
    refine ⟨fun _ => ?_, fun _ => ?_, fun _ => hu', fun _ hlt => ?_⟩
    · rw [evaluateWindow_fill, evaluateWindow_act]
      exact hfull.le
    · rwa [evaluateWindow_act]
    · rw [evaluateWindow_fill, evaluateWindow_act] at hlt
      exact absurd hfull hlt.ne
  · rw [updateWindow_of_not_full hfull]
    have hlt : s.fill.toNat < s.act.regs.uwLen.toNat ∧ (fillUpdate s).toNat ≤ s.act.regs.uwLen.toNat := by
      split_ifs at hnew <;> omega
    exact ⟨fun _ => hlt.2, hm, hu, fun _ _ => hfill hr hlt.1⟩

/-! ### The invariants through each operation -/

theorem controlSound_raise {s : State} (h : ControlSound s) (e : StatusEvent) : ControlSound (raise e s) :=
  controlSound_congr h (raise_act e s) (raise_run e s) (raise_cfgErr e s) (raise_cfgCode e s) (raise_fill e s)
    (raise_miss e s) (raise_sync e s) (raise_pol e s) (raise_stderr e s) (raise_pkCount e s) (raise_pkBuf e s)

theorem controlSound_clearIf {s : State} (h : ControlSound s) (clr : Bool) : ControlSound (clearIf clr s) :=
  controlSound_congr h (clearIf_act clr s) (clearIf_run clr s) (clearIf_cfgErr clr s) (clearIf_cfgCode clr s)
    (clearIf_fill clr s) (clearIf_miss clr s) (clearIf_sync clr s) (clearIf_pol clr s) (clearIf_stderr clr s)
    (clearIf_pkCount clr s) (clearIf_pkBuf clr s)

theorem controlSound_answer {s : State} (h : ControlSound s) (r : Result) : ControlSound (answer r s) :=
  controlSound_congr h rfl rfl rfl rfl rfl rfl rfl rfl rfl rfl rfl

theorem controlSound_takeWord {s : State} (h : ControlSound s) (rest : List Input) : ControlSound (takeWord rest s) :=
  controlSound_congr h rfl rfl rfl rfl rfl rfl rfl rfl rfl rfl rfl

/-- A stopped block with an empty packer meets every invariant but the report's by its being stopped. -/
theorem controlSound_of_stopped {s : State} (hr : s.run = false) (hcount : s.pkCount = 0#13) (hbuf : s.pkBuf = [])
    (hcode : s.cfgErr = true ↔ s.cfgCode ≠ 0#4) (hres : s.cfgCode ≠ 15#4) : ControlSound s := by
  have hno {P : Prop} (h : s.run = true) : P := absurd (hr.symm.trans h) Bool.false_ne_true
  exact ⟨hno, ⟨by rw [hbuf, hcount]; rfl, fun _ => hcount, hno⟩, ⟨hno, hno, hno, hno⟩, ⟨hcode, hres, hno⟩⟩

theorem controlSound_stop {s : State} (h : ControlSound s) : ControlSound (stop s) :=
  controlSound_of_stopped rfl rfl rfl h.report.code h.report.reserved

theorem controlSound_failStart {s : State} {c : CfgRegs} (hv : validate c ≠ 0#4) :
    ControlSound (failStart (validate c) (stop s)) :=
  controlSound_of_stopped rfl rfl rfl (iff_of_true rfl hv) (validate_ne_reserved c)

theorem controlSound_startedFrom {s : State} (hv : validate s.cfg = 0#4) : ControlSound (startedFrom s) := by
  have hunlock : 1 ≤ s.cfg.unlockN.toNat := startCheck_of_valid hv 11 (by omega) (by omega)
  obtain ⟨hsize, -⟩ := startCheck_of_valid hv 13 (by omega) (by omega)
  have hcode : (startedFrom s).cfgCode = 0#4 := rfl
  exact ⟨fun _ => ⟨hv, rfl⟩, ⟨rfl, fun h => Bool.noConfusion h, fun _ => hsize⟩,
    ⟨fun _ => Nat.zero_le _, fun _ => hunlock, fun _ _ => rfl, fun _ _ => ⟨rfl, rfl, rfl⟩⟩,
    ⟨iff_of_false Bool.false_ne_true (not_not_intro hcode), by rw [hcode]; decide, fun _ => rfl⟩⟩

/-- Settles O58: the reset state is stopped, with an empty packer and no report. -/
theorem resetIsSound : Obligations.ResetIsSound :=
  ⟨controlSound_of_stopped rfl rfl rfl (by decide) (by decide), fun h => by cases h⟩

theorem controlSound_powerOnReset (rest : List Input) (s : State) : ControlSound (powerOnReset rest s) :=
  controlSound_of_stopped rfl rfl rfl resetIsSound.control.report.code resetIsSound.control.report.reserved

theorem controlSound_updateWindow {s : State} (h : ControlSound s) (hr : s.run = true) (braw : Bool) :
    ControlSound (updateWindow braw s) := by
  obtain ⟨hconf, ⟨p1, p2, p3⟩, hlock, ⟨r1, r2, r3⟩⟩ := h
  exact ⟨by simpa [Configured] using hconf, ⟨by simpa using p1, by simpa using p2, by simpa using p3⟩,
    lockSound_updateWindow hconf hlock hr, ⟨by simpa using r1, by simpa using r2, by simpa using r3⟩⟩

theorem controlSound_emit {s : State} (h : ControlSound s) (e : OutEvent) : ControlSound (emit e s) :=
  controlSound_congr h rfl rfl rfl rfl rfl rfl rfl rfl rfl rfl rfl

theorem controlSound_pack {s : State} (h : ControlSound s) (hr : s.run = true) (b : Byte) :
    ControlSound (pack b s) := by
  obtain ⟨hconf, hpack, ⟨l1, l2, l3, l4⟩, ⟨r1, r2, r3⟩⟩ := h
  refine ⟨by simpa [Configured] using hconf, packerSound_pack hconf hpack hr, ⟨?_, ?_, ?_, ?_⟩,
    ⟨by simpa using r1, by simpa using r2, by simpa using r3⟩⟩
  · simpa only [pack_run, pack_fill, pack_act] using l1
  · simpa only [pack_run, pack_miss, pack_act] using l2
  · simpa only [pack_run, pack_sync, pack_miss] using l3
  · simpa only [pack_run, pack_fill, pack_act, pack_sync, pack_pol, pack_stderr] using l4

/-- A decided symbol keeps the invariants: the window and the counters first, then the packer. -/
theorem controlSound_extract {s : State} (h : ControlSound s) (hr : s.run = true) (neg : Bool) :
    ControlSound (extract neg s) := by
  rw [extract_eq]
  exact controlSound_pack (controlSound_emit (controlSound_updateWindow h hr (!neg)) _)
    (by rw [emit_run, updateWindow_run, hr]) _

theorem controlSound_countedDown {s : State} (h : ControlSound s) (x : Cplx) : ControlSound (countedDown x s) :=
  controlSound_congr h rfl rfl rfl rfl rfl rfl rfl rfl rfl rfl rfl

theorem controlSound_advanceNco {s : State} (h : ControlSound s) : ControlSound (advanceNco s) :=
  controlSound_congr h rfl rfl rfl rfl rfl rfl rfl rfl rfl rfl rfl

/-- A strobe moves the control state as `Extract` does. -/
theorem controlSound_strobe {s : State} (h : ControlSound s) (hr : s.run = true) (x : Cplx) :
    ControlSound (strobe (countedDown x s)) := by
  obtain ⟨ha, -, hf, hm, hy, hp, he, hc, hb⟩ := sameExtractor_strobe x s
  exact controlSound_congr (controlSound_extract h hr (detect (countedDown x s)).neg) ha (by simp) (by simp) (by simp)
    hf hm hy hp he hc hb

theorem controlSound_acceptSample {s : State} (h : ControlSound s) (hr : s.run = true) (x : Cplx) :
    ControlSound (acceptSample x s) := by
  rcases acceptSample_cases x s with e | e <;> rw [e]
  · exact controlSound_advanceNco (controlSound_countedDown h x)
  · exact controlSound_advanceNco (controlSound_strobe h hr x)

theorem controlSound_effect {i : Instr} {s t : State} (h : ControlSound s) (he : Effect s i t) : ControlSound t := by
  cases he with
  | accepted re im hr => exact controlSound_acceptSample h hr _
  | notAccepted re im _ => exact controlSound_answer h _
  | stored a v r => exact controlSound_congr h rfl rfl rfl rfl rfl rfl rfl rfl rfl rfl rfl
  | writeRefused a v _ => exact controlSound_raise h _
  | answered a w => exact controlSound_answer h _
  | readRefused a _ => exact controlSound_answer (controlSound_raise h _) _
  | none clr => exact controlSound_clearIf h clr
  | started clr hv => exact controlSound_startedFrom (by rwa [clearIf_cfg])
  | startFailed clr hv => exact controlSound_failStart hv
  | stopped clr => exact controlSound_stop (controlSound_clearIf h clr)
  | reserved clr => exact controlSound_raise (controlSound_clearIf h clr) _

/-- What a decoded word names is well formed (30_encoding.md R95). -/
theorem wf_of_decode {w : TWord} {i : Instr} (h : decode w = .ok i) : i.wf = true :=
  (encodeOfDecodeDropsOnlyIgnoredBits w i h).1

/-- A step idles, resets, or has the effect of the transaction presented. -/
theorem step_effect_cases {s t : State} (h : step s = .next t) :
    (s.inbox = [] ∧ t = idleStep s) ∨
    (∃ rest, s.inbox = .powerOn :: rest ∧ t = powerOnReset rest s) ∨
    (∃ w rest i, s.inbox = .word w :: rest ∧ decode w = .ok i ∧ Effect (takeWord rest s) i t) := by
  rcases step_cases h with h | h | ⟨w, rest, i, hin, hd, he⟩
  · exact .inl h
  · exact .inr (.inl h)
  · exact .inr (.inr ⟨w, rest, i, hin, hd, effect_of_exec (wf_of_decode hd) he⟩)

/-- Settles O56: by the effect of the step's transaction. -/
theorem stepKeepsControlSound : Obligations.StepKeepsControlSound := by
  intro s t hs h
  rcases step_effect_cases h with ⟨-, rfl⟩ | ⟨rest, -, rfl⟩ | ⟨w, rest, i, -, -, he⟩
  · exact controlSound_congr hs rfl rfl rfl rfl rfl rfl rfl rfl rfl rfl rfl
  · exact controlSound_powerOnReset rest s
  · exact controlSound_effect (controlSound_takeWord hs rest) he

/-! ### One step of a run without START, STOP or reset (43_symbol_packer.md R234 to R236) -/

/-- What a decided symbol presents and leaves in the buffer. -/
theorem extract_pack_cases (neg : Bool) {s : State} (h : s.pkBuf.length = s.pkCount.toNat) :
    ∃ b,
      (s.pkCount.toNat + 1 = s.act.regs.groupSize.toNat ∧ (extract neg s).pkBuf = [] ∧
        (extract neg s).events = s.events ++ [.bitOut b, .groupOut (s.pkBuf ++ [b])]) ∨
      ((extract neg s).pkBuf = s.pkBuf ++ [b] ∧ (extract neg s).events = s.events ++ [.bitOut b]) := by
  refine ⟨outByte (!neg) s.pol, ?_⟩
  rw [extract_eq]
  rcases pack_cases (outByte (!neg) s.pol)
    (s := emit (.bitOut (outByte (!neg) s.pol)) (updateWindow (!neg) s)) (by simpa using h) with ⟨hfull, e⟩ | ⟨-, e⟩ <;>
    rw [e]
  · exact .inl ⟨by simpa using hfull, rfl, by simp⟩
  · exact .inr ⟨by simp, by simp⟩

/-- What an accepted SAMPLE presents and leaves in the buffer. -/
theorem acceptSample_pack_cases (x : Cplx) {s : State} (h : s.pkBuf.length = s.pkCount.toNat) :
    ((acceptSample x s).pkBuf = s.pkBuf ∧ (acceptSample x s).events = s.events) ∨
    ∃ yi yq b,
      (s.pkCount.toNat + 1 = s.act.regs.groupSize.toNat ∧ (acceptSample x s).pkBuf = [] ∧
        (acceptSample x s).events = s.events ++ [.symOut yi yq, .bitOut b, .groupOut (s.pkBuf ++ [b])]) ∨
      ((acceptSample x s).pkBuf = s.pkBuf ++ [b] ∧
        (acceptSample x s).events = s.events ++ [.symOut yi yq, .bitOut b]) := by
  rcases acceptSample_cases x s with e | e
  · exact .inl (by rw [e]; exact ⟨rfl, rfl⟩)
  · right
    rw [e, advanceNco_pkBuf, advanceNco_events, strobe_eq]
    generalize hu : emitSymbol (detect (countedDown x s)).yOn _ = u
    have hbuf : u.pkBuf = s.pkBuf := by rw [← hu]; rfl
    have hcount : u.pkCount = s.pkCount := by rw [← hu]; rfl
    have hact : u.act = s.act := by rw [← hu]; rfl
    have hev : ∃ yi yq, u.events = s.events ++ [.symOut yi yq] := by rw [← hu]; exact ⟨_, _, rfl⟩
    obtain ⟨yi, yq, hev⟩ := hev
    obtain ⟨b, hb⟩ := extract_pack_cases (detect (countedDown x s)).neg (s := u) (by rw [hbuf, hcount, h])
    rw [hbuf, hcount, hact, hev, List.append_assoc, List.append_assoc] at hb
    exact ⟨yi, yq, b, hb⟩

/-- What one step of a run without START, STOP or reset keeps and delivers. -/
structure KeptStep (s u : State) : Prop where
  inbox : u.inbox = s.inbox.tail
  run : u.run = s.run
  act : u.act = s.act
  packs : s.pkBuf ++ bitBytes u.events = groupBytes u.events ++ u.pkBuf
  full : ∀ g ∈ groupPayloads u.events, g.length = s.act.regs.groupSize.toNat

/-- A step that presents nothing and leaves the packer alone. -/
theorem keptStep_of_silent {s u : State} (hin : u.inbox = s.inbox.tail) (hr : u.run = s.run) (ha : u.act = s.act)
    (hb : u.pkBuf = s.pkBuf) (he : u.events = []) : KeptStep s u := by
  refine ⟨hin, hr, ha, ?_, ?_⟩
  · rw [he, hb]
    exact List.append_nil _
  · rw [he]
    exact fun g hg => absurd hg List.not_mem_nil

theorem keptStep_acceptSample {s : State} {w : TWord} {rest : List Input} (hin : s.inbox = .word w :: rest)
    (h : s.pkBuf.length = s.pkCount.toNat) (x : Cplx) : KeptStep s (acceptSample x (takeWord rest s)) := by
  have hin' : (acceptSample x (takeWord rest s)).inbox = s.inbox.tail := by rw [acceptSample_inbox, hin]; rfl
  have hr := acceptSample_run x (takeWord rest s)
  have ha := acceptSample_act x (takeWord rest s)
  rcases acceptSample_pack_cases x (s := takeWord rest s) h with ⟨hb, he⟩ | ⟨yi, yq, b, ⟨hf, hb, he⟩ | ⟨hb, he⟩⟩
  · exact keptStep_of_silent hin' hr ha hb he
  · refine ⟨hin', hr, ha, ?_, ?_⟩ <;> rw [he]
    · rw [hb]
      change s.pkBuf ++ [b] = (s.pkBuf ++ [b] ++ []) ++ []
      rw [List.append_nil, List.append_nil]
    · intro g hg
      obtain rfl : g = s.pkBuf ++ [b] := List.mem_singleton.1 hg
      rw [List.length_append, h]
      exact hf
  · refine ⟨hin', hr, ha, ?_, ?_⟩ <;> rw [he]
    · rw [hb]
      rfl
    · exact fun g hg => absurd hg List.not_mem_nil

theorem keptStep {s u : State} (h : s.pkBuf.length = s.pkCount.toNat) (hk : ∀ x ∈ s.inbox.take 1, KeepsRunning x)
    (hstep : step s = .next u) : KeptStep s u := by
  rcases step_effect_cases hstep with ⟨hin, rfl⟩ | ⟨rest, hin, -⟩ | ⟨w, rest, i, hin, hd, he⟩
  · exact keptStep_of_silent (by rw [idleStep, hin]; rfl) rfl rfl rfl rfl
  · exact (hk .powerOn (by rw [hin]; exact List.mem_singleton.2 rfl)).elim
  · have hword : KeepsRunning (.word w) := hk _ (by rw [hin]; exact List.mem_singleton.2 rfl)
    have htail : rest = s.inbox.tail := by rw [hin]; rfl
    cases he with
    | accepted re im _ => exact keptStep_acceptSample hin h _
    | started clr _ => rw [KeepsRunning, hd] at hword; exact hword.elim
    | startFailed clr _ => rw [KeepsRunning, hd] at hword; exact hword.elim
    | stopped clr => rw [KeepsRunning, hd] at hword; exact hword.elim
    | _ => exact keptStep_of_silent (by simp [takeWord, htail]) (by simp) (by simp) (by simp) (by simp [takeWord])

/-! ### Runs without START, STOP or reset (43_symbol_packer.md R234 to R236) -/

theorem bitBytes_append (xs ys : List OutEvent) : bitBytes (xs ++ ys) = bitBytes xs ++ bitBytes ys := List.flatMap_append

theorem groupBytes_append (xs ys : List OutEvent) : groupBytes (xs ++ ys) = groupBytes xs ++ groupBytes ys :=
  List.flatMap_append

theorem groupPayloads_append (xs ys : List OutEvent) :
    groupPayloads (xs ++ ys) = groupPayloads xs ++ groupPayloads ys := List.filterMap_append

/-- The events of one step more. -/
theorem runEvents_succ {s u : State} (h : step s = .next u) (n : Nat) :
    runEvents (n + 1) s = u.events ++ runEvents n u := by
  rw [runEvents, h]

/-- What a run of `n` steps without START, STOP or reset keeps and delivers. -/
structure KeptRun (n : Nat) (s t : State) : Prop where
  sound : ControlSound t
  run : t.run = s.run
  act : t.act = s.act
  packs : s.pkBuf ++ bitBytes (runEvents n s) = groupBytes (runEvents n s) ++ t.pkBuf
  full : ∀ g ∈ groupPayloads (runEvents n s), g.length = s.act.regs.groupSize.toNat

/-- A kept step before a kept run is a kept run. -/
theorem KeptStep.cons {s u t : State} {n : Nat} (h1 : KeptStep s u) (hstep : step s = .next u) (h2 : KeptRun n u t) :
    KeptRun (n + 1) s t := by
  obtain ⟨-, hrun, hact, hpacks, hfull⟩ := h1
  obtain ⟨hsound, hrun', hact', hpacks', hfull'⟩ := h2
  refine ⟨hsound, hrun'.trans hrun, hact'.trans hact, ?_, ?_⟩ <;> rw [runEvents_succ hstep]
  · calc s.pkBuf ++ bitBytes (u.events ++ runEvents n u)
        = (s.pkBuf ++ bitBytes u.events) ++ bitBytes (runEvents n u) := by rw [bitBytes_append, List.append_assoc]
      _ = groupBytes u.events ++ (u.pkBuf ++ bitBytes (runEvents n u)) := by rw [hpacks, List.append_assoc]
      _ = groupBytes (u.events ++ runEvents n u) ++ t.pkBuf := by rw [hpacks', groupBytes_append, List.append_assoc]
  · intro g hg
    rw [groupPayloads_append, List.mem_append] at hg
    rcases hg with hg | hg
    · exact hfull g hg
    · rw [← hact]
      exact hfull' g hg

/-- Induction over the steps: each keeps the invariants, and the inputs still to come keep running. -/
theorem keptRun (n : Nat) : ∀ s t : State, ControlSound s → (∀ x ∈ s.inbox.take n, KeepsRunning x) →
    Host.Core.run Sys2Proof.core n s = .next t → KeptRun n s t := by
  induction n with
  | zero =>
    intro s t hs _ h
    obtain rfl : s = t := Host.Outcome.next.inj h
    exact ⟨hs, rfl, rfl, List.append_nil _, fun g hg => absurd hg List.not_mem_nil⟩
  | succ n ih =>
    intro s t hs hk h
    obtain ⟨u, hstep, hrest⟩ := run_succ_cases Sys2Proof.core n s t h
    have hfirst : ∀ x ∈ s.inbox.take 1, KeepsRunning x := fun x hx =>
      hk x ((List.take_subset_take_left s.inbox (by omega)) hx)
    have hkept := keptStep hs.packer.live hfirst hstep
    refine hkept.cons hstep (ih u t (stepKeepsControlSound s u hs hstep) (fun x hx => hk x ?_) hrest)
    rw [hkept.inbox] at hx
    cases hin : s.inbox with
    | nil => simp [hin] at hx
    | cons y ys =>
      rw [hin] at hx
      exact List.mem_cons_of_mem y hx

/-- Settles O50: the run's own equation on the packer. -/
theorem groupsReproduceTheBits : Obligations.GroupsReproduceTheBits :=
  fun n s t hs hk h => (keptRun n s t hs hk h).packs

/-- The bytes delivered, counted by groups. -/
theorem length_groupBytes {es : List OutEvent} {k : Nat} (h : ∀ g ∈ groupPayloads es, g.length = k) :
    (groupBytes es).length = k * (groupPayloads es).length := by
  induction es with
  | nil => rfl
  | cons e es ih =>
    have hes := ih fun g hg => h g (by
      rw [← List.singleton_append, groupPayloads_append]
      exact List.mem_append_right _ hg)
    rw [← List.singleton_append, groupBytes_append, groupPayloads_append, List.length_append, List.length_append, hes,
      Nat.mul_add]
    congr 1
    cases e with
    | groupOut bytes =>
      have hk : bytes.length = k := h bytes List.mem_cons_self
      simp [groupBytes, groupPayloads, hk]
    | _ => rfl

/-- Settles O51: every group is full, and the counts are the lengths of the equation of R236. -/
theorem groupsAreFullAndCounted : Obligations.GroupsAreFullAndCounted := by
  intro n s t hs hr hk h
  obtain ⟨hsound, hrun, hact, hpacks, hfull⟩ := keptRun n s t hs hk h
  have hlen := congrArg List.length hpacks
  rw [List.length_append, List.length_append, length_groupBytes hfull, hs.packer.live, hsound.packer.live] at hlen
  have hroom := hsound.packer.room (hrun.trans hr)
  rw [hact] at hroom
  exact ⟨hfull, hlen, hroom⟩

end Sys2Proof.Machine
end

section
/-! PROOF. Bounds on f32 results that the running block's invariant (10_state.md R48) needs: magnitude bounds through the
operations, and the smoothed estimate. -/

namespace Sys2Proof.F32

open Sys2Proof.Safety

/-! ### Magnitude bounds through the operations -/

/-- `x` is finite and at most `bound` in magnitude. -/
def AbsLe (bound x : F32) : Prop := FiniteAnd x fun u => - units bound ≤ u ∧ u ≤ units bound

theorem isFinite_of_between {x bound : F32} (hb : isFinite bound = true) (h1 : - units bound ≤ units x)
    (h2 : units x ≤ units bound) : isFinite x = true :=
  isFinite_of_units_le hb (by rw [abs_of_nonneg (by omega : 0 ≤ units bound)]; exact abs_le.2 ⟨h1, h2⟩)

/-- A bound is kept under a larger one. -/
theorem AbsLe.mono {a b x : F32} (h : AbsLe a x) (hab : units a ≤ units b) : AbsLe b x := by
  obtain ⟨hf, h1, h2⟩ := h
  exact ⟨hf, by omega, by omega⟩

theorem AbsLe.add {a b c x y : F32} (hc : isFinite c = true) (hsum : units a + units b ≤ units c) (hx : AbsLe a x)
    (hy : AbsLe b y) : AbsLe c (add x y) := by
  obtain ⟨fx, x1, x2⟩ := hx
  obtain ⟨fy, y1, y2⟩ := hy
  have hlow : units (neg c) ≤ units (F32.add x y) :=
    le_units_add fx fy (by simpa using isNaN_of_isFinite hc) (by rw [units_neg]; omega)
  have hhigh : units (F32.add x y) ≤ units c := units_add_le fx fy (isNaN_of_isFinite hc) (by omega)
  rw [units_neg] at hlow
  exact ⟨isFinite_of_between hc hlow hhigh, hlow, hhigh⟩

theorem AbsLe.mul {a b c x y : F32} (hc : isFinite c = true) (hprod : units a * units b ≤ units c * 2 ^ 149)
    (hx : AbsLe a x) (hy : AbsLe b y) : AbsLe c (mul x y) := by
  obtain ⟨fx, x1, x2⟩ := hx
  obtain ⟨fy, y1, y2⟩ := hy
  have habs : |units x * units y| ≤ units c * 2 ^ 149 := by
    rw [abs_mul]
    exact (mul_le_mul (abs_le.2 ⟨x1, x2⟩) (abs_le.2 ⟨y1, y2⟩) (abs_nonneg _) (by omega)).trans hprod
  obtain ⟨h1, h2⟩ := abs_le.1 habs
  have hlow : units (neg c) ≤ units (F32.mul x y) :=
    le_units_mul fx fy (by simpa using isNaN_of_isFinite hc) (by rw [units_neg, neg_mul]; exact h1)
  have hhigh : units (F32.mul x y) ≤ units c := units_mul_le fx fy (isNaN_of_isFinite hc) h2
  rw [units_neg] at hlow
  exact ⟨isFinite_of_between hc hlow hhigh, hlow, hhigh⟩

/-- A number that is no NaN, clamped to a symmetric range. -/
theorem absLe_clamp {x b : F32} (hx : isNaN x = false) (hb : isFinite b = true) (h0 : 0 ≤ units b) :
    AbsLe b (clamp x (neg b) b) := by
  obtain ⟨hf, h1, h2⟩ := clamp_units hx (by rwa [isFinite_neg]) hb (by rw [units_neg]; omega)
  rw [units_neg] at h1
  exact ⟨hf, h1, h2⟩

/-- An update `x + g * e` of finite numbers is no NaN. -/
theorem isNaN_update {x g e : F32} (hx : isFinite x = true) (hg : isFinite g = true) (he : isFinite e = true) :
    isNaN (add x (mul g e)) = false := isNaN_add_left_finite hx (isNaN_mul_finite hg he)

/-! ### The smoothed estimate (42_symbol_extractor.md R208) -/

/-- `f32i` of a small number is exact. -/
theorem ofNat_exact {n : Nat} (h : n ≤ 2 ^ 24) : FiniteAnd (ofNat n) fun u => u = n * 2 ^ 149 := by
  have he : ofNat n = ofUnits ((n * 2 ^ 149 : Nat) : Int) := by
    rw [ofUnits, Int.natAbs_natCast, decide_eq_false (by omega)]
    rfl
  have hu : units (ofNat n) = ((n * 2 ^ 149 : Nat) : Int) := by
    rw [he]
    refine units_ofUnits_exact (k := 149) (by norm_num) ?_ ?_
    · rw [Int.natAbs_natCast]
      exact Dvd.intro_left n rfl
    · rw [Int.natAbs_natCast]
      exact Nat.mul_le_mul_right _ h
  have htop : units 0x4B800000#32 = 2 ^ 24 * 2 ^ 149 := by decide
  refine ⟨isFinite_of_between (bound := 0x4B800000#32) (by decide) ?_ ?_, by rw [hu]; push_cast; rfl⟩
  · rw [hu, htop]
    omega
  · rw [hu, htop]
    omega

/-- A quotient of two small counts, the first at most the second, lies in [0, 1]. -/
theorem div_ofNat_bounds {m n : Nat} (h : m ≤ n) (h0 : 0 < n) (hn : n ≤ 2 ^ 24) :
    FiniteAnd (div (ofNat m) (ofNat n)) fun u => 0 ≤ u ∧ u ≤ units one := by
  obtain ⟨fm, um⟩ := ofNat_exact (h.trans hn)
  obtain ⟨fn, un⟩ := ofNat_exact hn
  have hz : isZero (ofNat n) = false := by
    rw [Bool.eq_false_iff, ne_eq, ← units_zero_iff, un]
    omega
  have hden : (magUnits (mag (ofNat n)) : Int) = n * 2 ^ 149 := by rw [← natAbs_units, un]; omega
  have hpos : 0 < magUnits (mag (ofNat n)) := by
    have : (0 : Int) < n * 2 ^ 149 := by positivity
    omega
  have hnum : signed (sign (ofNat m) != sign (ofNat n)) (magUnits (mag (ofNat m)) * 2 ^ 149) = m * 2 ^ 149 * 2 ^ 149 := by
    rw [signed_div hz, um, un, Int.sign_eq_one_of_pos (by positivity), mul_one]
  have hlow : units F32.zero ≤ units (div (ofNat m) (ofNat n)) := by
    rw [div_finite fm fn hz]
    refine le_units_round hpos (by decide) ?_
    rw [hnum, show units F32.zero = 0 by decide, zero_mul]
    exact mul_nonneg (mul_nonneg (Int.natCast_nonneg m) (by norm_num)) (by norm_num)
  have hhigh : units (div (ofNat m) (ofNat n)) ≤ units one := by
    rw [div_finite fm fn hz]
    refine units_round_le hpos (by decide) ?_
    rw [hnum, units_one, hden]
    have : (m : Int) ≤ n := by exact_mod_cast h
    nlinarith
  rw [show units F32.zero = 0 by decide] at hlow
  exact ⟨isFinite_of_between (bound := one) (by decide) (by omega) hhigh, hlow, hhigh⟩

/-- Less than half a step above 1.0 rounds to at most 1.0: the next number is a whole step of 2^126 units above. -/
theorem units_ofUnits_le_one {n : Int} (h : n < units one + 2 ^ 125) : units (ofUnits n) ≤ units one := by
  rcases le_or_gt n (units one) with hle | hgt
  · exact units_ofUnits_le (by decide) hle
  · have hnear := (nearestEven_ofUnits (n := n) (by rw [units_one] at hgt; rw [units_piF]; omega)
      (by rw [units_one] at h; rw [units_piF]; omega)).nearest one (by decide)
    rw [missBy_eq, missBy_eq] at hnear
    by_contra hc
    have hnext : units 0x3F800001#32 = 2 ^ 149 + 2 ^ 126 := by decide
    have hmag : mag one + 1 ≤ mag (ofUnits n) := by
      have : magUnits (mag one) < magUnits (mag (ofUnits n)) := by
        rw [← natAbs_units, ← natAbs_units]
        rw [units_one] at hc ⊢
        omega
      exact magUnits_lt_iff.1 this
    have hstep : units 0x3F800001#32 ≤ (magUnits (mag (ofUnits n)) : Int) := by
      have := magUnits_le_iff.2 hmag
      rw [show units 0x3F800001#32 = (magUnits (mag one + 1) : Int) by decide]
      exact_mod_cast this
    rw [← natAbs_units] at hstep
    rw [units_one] at *
    omega

/-- `1 - s`, rounded up to the step of [0.5, 1.0), is a binary32 value, and exceeds `1 - s` by less than that step. -/
theorem exists_above_complement {s : Int} (h0 : 0 ≤ s) (h1 : s ≤ units one) :
    ∃ y : F32, isNaN y = false ∧ units one - s ≤ units y ∧ units y + s < units one + 2 ^ 125 := by
  rw [units_one] at h1 ⊢
  have hexact : units (ofUnits ((2 ^ 149 - s + (2 ^ 125 - 1)) / 2 ^ 125 * 2 ^ 125)) =
      (2 ^ 149 - s + (2 ^ 125 - 1)) / 2 ^ 125 * 2 ^ 125 := by
    refine units_ofUnits_exact (k := 125) (by norm_num) ?_ ?_
    · rw [← Int.natCast_dvd]
      push_cast
      exact Dvd.intro_left _ rfl
    · omega
  refine ⟨ofUnits ((2 ^ 149 - s + (2 ^ 125 - 1)) / 2 ^ 125 * 2 ^ 125), isNaN_ofUnits _, ?_, ?_⟩ <;> rw [hexact] <;> omega

section
variable {k e s : F32} (hk : FiniteAnd k fun u => 0 < u ∧ u ≤ 2 ^ 149)
  (he : FiniteAnd e fun u => 0 ≤ u ∧ u ≤ units one) (hs : FiniteAnd s fun u => 0 ≤ u ∧ u ≤ units one)
include he hs

/-- A difference of two numbers of [0, 1]. -/
theorem absLe_sub_of_unit : AbsLe one (sub e s) := by
  obtain ⟨fe, e0, e1⟩ := he
  obtain ⟨fs, s0, s1⟩ := hs
  have fns : isFinite (neg s) = true := by rwa [isFinite_neg]
  have hlow : units (neg one) ≤ units (sub e s) := le_units_add fe fns (by decide) (by rw [units_neg, units_neg]; omega)
  have hhigh : units (sub e s) ≤ units one := units_add_le fe fns (by decide) (by rw [units_neg]; omega)
  rw [units_neg] at hlow
  exact ⟨isFinite_of_between (by decide) hlow hhigh, hlow, hhigh⟩

include hk

theorem absLe_smoothing_step : AbsLe one (mul k (sub e s)) := by
  obtain ⟨fk, k0, k1⟩ := hk
  have h1 := units_one
  exact AbsLe.mul (a := one) (b := one) (by decide) (by rw [h1]) ⟨fk, by omega, by omega⟩ (absLe_sub_of_unit he hs)

/-- A step up never passes 1.0, although `1 - s` may round up, since what it adds too much is less than half a step above
1.0. -/
theorem smooth_bounds_up (hup : units s ≤ units e) :
    0 ≤ units (add s (mul k (sub e s))) ∧ units (add s (mul k (sub e s))) ≤ units one := by
  have fd := (absLe_sub_of_unit he hs).1
  have fm := (absLe_smoothing_step hk he hs).1
  obtain ⟨fk, k0, k1⟩ := hk
  obtain ⟨fe, e0, e1⟩ := he
  obtain ⟨fs, s0, s1⟩ := hs
  have fns : isFinite (neg s) = true := by rwa [isFinite_neg]
  have z0 : units F32.zero = 0 := by decide
  have d0 : units F32.zero ≤ units (sub e s) := le_units_add fe fns (by decide) (by rw [units_neg, z0]; omega)
  rw [z0] at d0
  have m0 : units F32.zero ≤ units (mul k (sub e s)) :=
    le_units_mul fk fd (by decide) (by rw [z0, zero_mul]; exact mul_nonneg k0.le d0)
  have m1 : units (mul k (sub e s)) ≤ units (sub e s) := units_mul_le fk fd (isNaN_of_isFinite fd) (by nlinarith)
  obtain ⟨y, ny, y1, y2⟩ := exists_above_complement s0 s1
  have d1 : units (sub e s) ≤ units y := units_add_le fe fns ny (by rw [units_neg]; omega)
  have hlow : units F32.zero ≤ units (add s (mul k (sub e s))) := le_units_add fs fm (by decide) (by omega)
  refine ⟨by omega, ?_⟩
  rw [units_add_eq fs fm]
  exact units_ofUnits_le_one (by omega)

/-- A step down is at most the estimate itself. -/
theorem smooth_bounds_down (hdown : units e ≤ units s) :
    0 ≤ units (add s (mul k (sub e s))) ∧ units (add s (mul k (sub e s))) ≤ units one := by
  have fd := (absLe_sub_of_unit he hs).1
  have fm := (absLe_smoothing_step hk he hs).1
  obtain ⟨fk, k0, k1⟩ := hk
  obtain ⟨fe, e0, e1⟩ := he
  obtain ⟨fs, s0, s1⟩ := hs
  have fns : isFinite (neg s) = true := by rwa [isFinite_neg]
  have z0 : units F32.zero = 0 := by decide
  have d0 : units (sub e s) ≤ units F32.zero := units_add_le fe fns (by decide) (by rw [units_neg, z0]; omega)
  rw [z0] at d0
  have d1 : units (neg s) ≤ units (sub e s) := le_units_add fe fns (isNaN_of_isFinite fns) (by omega)
  rw [units_neg] at d1
  have m0 : units (mul k (sub e s)) ≤ units F32.zero :=
    units_mul_le fk fd (by decide) (by rw [z0, zero_mul]; exact mul_nonpos_of_nonneg_of_nonpos k0.le d0)
  have m1 : units (sub e s) ≤ units (mul k (sub e s)) := le_units_mul fk fd (isNaN_of_isFinite fd) (by nlinarith)
  have hlow : units F32.zero ≤ units (add s (mul k (sub e s))) := le_units_add fs fm (by decide) (by omega)
  exact ⟨by omega, units_add_le fs fm (by decide) (by omega)⟩

/-- The smoothed estimate stays in [0, 1]. -/
theorem smooth_bounds : FiniteAnd (add s (mul k (sub e s))) fun u => 0 ≤ u ∧ u ≤ units one := by
  have hres := (le_total (units s) (units e)).elim (smooth_bounds_up hk he hs) (smooth_bounds_down hk he hs)
  exact ⟨isFinite_of_between (bound := one) (by decide) (by omega) hres.2, hres⟩

end

end Sys2Proof.F32
end

section
/-! PROOF. Every step keeps the running block bounded (10_state.md R48), and the countdown is exact (41_demodulator.md R168,
R169). -/

namespace Sys2Proof.Machine

open Sys2Proof.F32 Sys2Proof.Safety

theorem bounded_symmetric_iff {b x : F32} (hb : isNaN b = false) : Bounded (F32.neg b) x b ↔ AbsLe b x := by
  rw [bounded_iff (by simpa using hb) hb, units_neg, AbsLe]

theorem bounded_zero_iff {x hi : F32} (hh : isNaN hi = false) :
    Bounded F32.zero x hi ↔ FiniteAnd x fun u => 0 ≤ u ∧ u ≤ units hi := by
  rw [bounded_iff (by decide) hh, show units F32.zero = 0 by decide]

/-! ### The discriminants and the loop updates (41_demodulator.md R175 to R179) -/

/-- `Discr` bounds what the loops use by ERR_CLAMP. -/
theorem absLe_discr {c : CfgRegs} (h : validate c = 0#4) (e : F32) : AbsLe c.errClamp (discr c.errClamp e) := by
  obtain ⟨hf, h0, -⟩ := startCheck_of_valid h 9 (by omega) (by omega)
  exact absLe_clamp (isNaN_of_isFinite (isFinite_fin0 e)) hf h0.le

section
variable {s : State} (hv : validate s.act.regs = 0#4)
include hv

theorem absLe_phaseError : AbsLe s.act.regs.errClamp (phaseError s) := absLe_discr hv _

theorem absLe_timingError : AbsLe s.act.regs.errClamp (timingError s) := absLe_discr hv _

theorem absLe_strobe_nu (hnu : AbsLe s.act.regs.freqLimit s.nu) : AbsLe s.act.regs.freqLimit (strobe s).nu := by
  obtain ⟨⟨hf, h0, -⟩, -⟩ := startCheck_of_valid hv 6 (by omega) (by omega)
  obtain ⟨-, hom, -⟩ := startCheck_of_valid hv 5 (by omega) (by omega)
  rw [strobe_nu]
  exact absLe_clamp (isNaN_update hnu.1 hom (absLe_phaseError hv).1) hf h0.le

/-- The step of the phase is at most 2.0 * ECLAMP_MAX, so the phase before it is wrapped is far from overflow. -/
theorem absLe_strobe_theta (hth : AbsLe piF s.theta) : AbsLe 0x4A800000#32 (strobe s).theta := by
  obtain ⟨⟨hmf, hm0, hm1⟩, -⟩ := startCheck_of_valid hv 5 (by omega) (by omega)
  obtain ⟨-, -, hec⟩ := startCheck_of_valid hv 9 (by omega) (by omega)
  have h2 : units two = 2 * 2 ^ 149 := by decide
  have he : units Config.eclampMax = 1000000 * 2 ^ 149 := by decide
  have hmu : AbsLe two s.act.regs.loopMu := ⟨hmf, by rw [h2]; omega, by rw [h2]; exact hm1⟩
  have herr : AbsLe Config.eclampMax (phaseError s) := (absLe_phaseError hv).mono (by rw [he]; exact hec)
  have hstep : AbsLe 0x4A000000#32 (F32.mul s.act.regs.loopMu (phaseError s)) :=
    AbsLe.mul (by decide) (by decide) hmu herr
  rw [strobe_theta]
  exact AbsLe.add (by decide) (by decide) hth hstep

variable (hact : s.act = latchActive s.act.regs)
include hact

/-- RLIM is TQ, so it is finite and not negative. -/
theorem rlim_bounds : FiniteAnd s.act.rlim fun u => 0 ≤ u := by
  obtain ⟨hf, h0, -⟩ := tq_bounds hv
  rw [hact, latchActive_rlim]
  exact ⟨hf, h0⟩

theorem absLe_taccUpdate (hta : isFinite s.tacc = true) : AbsLe s.act.rlim (taccUpdate (timingError s) s) := by
  obtain ⟨hf, h0⟩ := rlim_bounds hv hact
  obtain ⟨-, ⟨hom, -⟩, -⟩ := startCheck_of_valid hv 7 (by omega) (by omega)
  exact absLe_clamp (isNaN_update hta hom (absLe_timingError hv).1) hf h0

/-- The period added at a strobe is from 1.0 to TMAX (41_demodulator.md R177). -/
theorem period_bounds (hta : isFinite s.tacc = true) :
    FiniteAnd (nextPeriod (timingError s) (taccUpdate (timingError s) s) s.act) fun u =>
      units one ≤ u ∧ u ≤ units s.act.tmax := by
  have htacc := absLe_taccUpdate hv hact hta
  have herr := (absLe_timingError hv).1
  generalize taccUpdate (timingError s) s = tacc at *
  generalize timingError s = et at *
  rw [hact] at htacc ⊢
  obtain ⟨hf, h1, h2⟩ := nextPeriod_bounds hv herr htacc
  exact ⟨hf, (tmin_bounds hv).2.1.trans h1, h2⟩

end

/-- The advanced phase is in the half-open range (41_demodulator.md R179). -/
theorem theta_advanceNco {s : State} {b : F32} (hth : AbsLe b s.theta) (hnu : AbsLe piF s.nu)
    (hb : units b ≤ units 0x4A800000#32) :
    Bounded (F32.neg piF) (advanceNco s).theta piF ∧ F32.lt (advanceNco s).theta piF = true := by
  have hsum : AbsLe 0x4B000000#32 (F32.add s.theta s.nu) :=
    AbsLe.add (by decide) (by decide) (hth.mono hb) hnu
  obtain ⟨hf, hu⟩ := units_wrap hsum.1
  obtain ⟨h1, h2, -⟩ := wrapUnits_spec (units (F32.add s.theta s.nu))
  rw [← hu] at h1 h2
  rw [advanceNco_theta, bounded_symmetric_iff (by decide), lt_iff (isNaN_of_isFinite hf) (by decide)]
  exact ⟨⟨hf, h1, h2.le⟩, h2⟩

/-! ### The countdown (41_demodulator.md R168, R169) -/

theorem isStrobe_iff {s : State} (ht : FiniteAnd s.tau fun u => 0 ≤ u ∧ u ≤ 2 ^ 17 * 2 ^ 149) :
    IsStrobe s ↔ units s.tau ≤ units one := by
  obtain ⟨hf, h0, h1⟩ := ht
  have z0 : units F32.zero = 0 := by decide
  have hsub : isFinite (F32.neg one) = true := by decide
  have hno : isNaN (F32.sub s.tau one) = false := isNaN_add_finite hf hsub
  rw [IsStrobe, le_iff hno (by decide), z0]
  constructor
  · intro h
    by_contra hc
    rw [units_sub_one hf (by omega) (by omega)] at h
    omega
  · intro h
    rw [← z0]
    exact units_add_le hf hsub (by decide) (by rw [units_neg, z0]; omega)

/-- Between strobes the countdown is exact and TAU stays positive. -/
theorem units_tau_between {s : State} (ht : FiniteAnd s.tau fun u => 0 ≤ u ∧ u ≤ 2 ^ 17 * 2 ^ 149)
    (hs : ¬ IsStrobe s) : units (F32.sub s.tau one) = units s.tau - units one ∧ units one < units s.tau := by
  rw [isStrobe_iff ht, not_le] at hs
  exact ⟨units_sub_one ht.1 hs.le (by have := ht.2.2; omega), hs⟩

/-- At a strobe the counted-down TAU is in [-1.0, 0.0]. -/
theorem units_tau_strobe {s : State} (ht : FiniteAnd s.tau fun u => 0 ≤ u ∧ u ≤ 2 ^ 17 * 2 ^ 149) (hs : IsStrobe s) :
    FiniteAnd (F32.sub s.tau one) fun u => - units one ≤ u ∧ u ≤ 0 := by
  rw [isStrobe_iff ht] at hs
  obtain ⟨hf, h0, -⟩ := ht
  have z0 : units F32.zero = 0 := by decide
  have hsub : isFinite (F32.neg one) = true := by decide
  have hlow : units (F32.neg one) ≤ units (F32.sub s.tau one) :=
    le_units_add hf hsub (by decide) (by omega)
  have hhigh : units (F32.sub s.tau one) ≤ units F32.zero :=
    units_add_le hf hsub (by decide) (by rw [units_neg, z0]; omega)
  rw [units_neg] at hlow
  rw [z0] at hhigh
  exact ⟨isFinite_of_between (bound := one) (by decide) hlow (by rw [units_one]; omega), hlow, hhigh⟩

/-- A counted-down TAU in [-1.0, 0.0] gains a period from 1.0 to `hi` and is again in [0, `hi`] (R177). -/
theorem refill_bounds {t p hi : F32} (hhi : isFinite hi = true)
    (ht : FiniteAnd t fun u => - units one ≤ u ∧ u ≤ 0) (hp : FiniteAnd p fun u => units one ≤ u ∧ u ≤ units hi) :
    FiniteAnd (F32.add t p) fun u => 0 ≤ u ∧ u ≤ units hi := by
  obtain ⟨tf, t0, t1⟩ := ht
  obtain ⟨pf, p0, p1⟩ := hp
  have z0 : units F32.zero = 0 := by decide
  have hlow : units F32.zero ≤ units (F32.add t p) := le_units_add tf pf (by decide) (by omega)
  have hhigh : units (F32.add t p) ≤ units hi := units_add_le tf pf (isNaN_of_isFinite hhi) (by omega)
  rw [z0] at hlow
  exact ⟨isFinite_of_between hhi (by omega) hhigh, hlow, hhigh⟩

/-- What a counted-down TAU in [-1.0, 0.0] is short of zero is a fraction in [0, 1] (R178). -/
theorem shortfall_bounds {t : F32} (ht : FiniteAnd t fun u => - units one ≤ u ∧ u ≤ 0) :
    FiniteAnd (F32.sub F32.zero t) fun u => 0 ≤ u ∧ u ≤ units one := by
  obtain ⟨tf, t0, t1⟩ := ht
  have z0 : units F32.zero = 0 := by decide
  have tn : isFinite (F32.neg t) = true := by rwa [isFinite_neg]
  have hlow : units F32.zero ≤ units (F32.sub F32.zero t) :=
    le_units_add (by decide) tn (by decide) (by rw [units_neg]; omega)
  have hhigh : units (F32.sub F32.zero t) ≤ units one :=
    units_add_le (by decide) tn (by decide) (by rw [units_neg]; omega)
  rw [z0] at hlow
  exact ⟨isFinite_of_between (by decide) (by omega) hhigh, hlow, hhigh⟩

theorem tau_bounds {s : State} (hc : Configured s) (hr : s.run = true) (hl : LoopsBounded s) :
    FiniteAnd s.tau fun u => 0 ≤ u ∧ u ≤ units s.act.tmax := by
  have htmax : isFinite s.act.tmax = true := by rw [(hc hr).2]; exact (tmax_bounds (hc hr).1).1
  exact (bounded_zero_iff (isNaN_of_isFinite htmax)).1 hl.tau

theorem tau_bounds_num {s : State} (hc : Configured s) (hr : s.run = true) (hl : LoopsBounded s) :
    FiniteAnd s.tau fun u => 0 ≤ u ∧ u ≤ 2 ^ 17 * 2 ^ 149 := by
  obtain ⟨hf, h0, h1⟩ := tau_bounds hc hr hl
  have htop : units s.act.tmax ≤ 2 ^ 17 * 2 ^ 149 := by rw [(hc hr).2]; exact (tmax_bounds (hc hr).1).2.2
  exact ⟨hf, h0, h1.trans htop⟩

/-- Settles O37: TAU is at most TMAX, which is far below 2^24, so the countdown does not round. -/
theorem countdownIsExact : Obligations.CountdownIsExact := by
  intro s hs hr
  have ht := tau_bounds_num hs.control.configured hr (hs.loops hr)
  refine ⟨isStrobe_iff ht, fun hno i q => ⟨_, exec_sample_running i q hr, ?_⟩⟩
  rw [acceptSample_between hno, advanceNco_tau, countedDown_tau]
  exact (units_tau_between ht hno).1

/-! ### The estimate (42_symbol_extractor.md R208) -/

theorem stderr_updateWindow {s : State} (hc : Configured s) (hr : s.run = true)
    (hs : FiniteAnd s.stderr fun u => 0 ≤ u ∧ u ≤ units one) (braw : Bool) :
    FiniteAnd (updateWindow braw s).stderr fun u => 0 ≤ u ∧ u ≤ units one := by
  obtain ⟨hv, hact⟩ := hc hr
  obtain ⟨hlen1, hlen64, -⟩ := startCheck_of_valid hv 10 (by omega) (by omega)
  have hk := startCheck_of_valid hv 12 (by omega) (by omega)
  by_cases hfull : (fillUpdate s).toNat = s.act.regs.uwLen.toNat
  · rw [updateWindow_of_full hfull, evaluateWindow_stderr]
    refine smooth_bounds hk ?_ hs
    have hnf : s.act.nf = F32.ofNat s.act.regs.uwLen.toNat := by rw [hact]; rfl
    rw [shifted_act, instantError, hnf]
    exact div_ofNat_bounds (Nat.sub_le _ _) hlen1 (by omega)
  · rw [updateWindow_of_not_full hfull]
    exact hs

/-! ### The bounds through each operation -/

/-- TMAX is finite while running. -/
theorem isFinite_tmax {s : State} (hv : validate s.act.regs = 0#4) (hact : s.act = latchActive s.act.regs) :
    isFinite s.act.tmax = true := by
  rw [hact]
  exact (tmax_bounds hv).1

theorem finiteC_replicate_zero {n : Nat} (k : Nat) (h : k < n) :
    finiteC (Vector.replicate n (⟨F32.zero, F32.zero⟩ : Cplx))[k] = true := by
  rw [Vector.getElem_replicate]
  decide

/-- The bounds that a START sets up (40_control.md R129). -/
theorem loopsBounded_startedFrom {s : State} (hv : validate s.cfg = 0#4) : LoopsBounded (startedFrom s) := by
  obtain ⟨⟨hf, hf0, -⟩, hinit⟩ := startCheck_of_valid hv 6 (by omega) (by omega)
  obtain ⟨hsf, hs2, -⟩ := sps_bounds hv
  obtain ⟨htf, ht0, -⟩ := tq_bounds hv
  obtain ⟨hmf, hm1, -⟩ := tmax_bounds hv
  have z0 : units F32.zero = 0 := by decide
  exact
    { xl := finiteC_replicate_zero
      dl := finiteC_replicate_zero
      theta := by change Bounded (F32.neg piF) F32.zero piF; decide
      thetaBelow := by change F32.lt F32.zero piF = true; decide
      nu := (bounded_symmetric_iff (isNaN_of_isFinite hf)).2 hinit
      tacc := (bounded_symmetric_iff (isNaN_of_isFinite htf)).2
        (by change AbsLe _ F32.zero; exact ⟨by decide, by rw [z0]; omega, by rw [z0]; omega⟩)
      tau := (bounded_zero_iff (isNaN_of_isFinite hmf)).2 ⟨hsf, by change 0 ≤ units (spsOf s.cfg); omega, hm1⟩
      mufrac := by change Bounded F32.zero F32.zero one; decide
      stderr := by change Bounded F32.zero half one; decide }

/-- A running, sound state's bounds on exact values. -/
theorem loops_on_units {s : State} (hv : validate s.act.regs = 0#4) (hact : s.act = latchActive s.act.regs)
    (h : LoopsBounded s) :
    AbsLe piF s.theta ∧ AbsLe s.act.regs.freqLimit s.nu ∧ AbsLe s.act.rlim s.tacc := by
  obtain ⟨⟨hf, -⟩, -⟩ := startCheck_of_valid hv 6 (by omega) (by omega)
  obtain ⟨hrf, -⟩ := rlim_bounds hv hact
  exact ⟨(bounded_symmetric_iff (by decide)).1 h.theta, (bounded_symmetric_iff (isNaN_of_isFinite hf)).1 h.nu,
    (bounded_symmetric_iff (isNaN_of_isFinite hrf)).1 h.tacc⟩

/-- NU is within PI_F, since FREQ_LIMIT is. -/
theorem absLe_piF_of_freqLimit {c : CfgRegs} (hv : validate c = 0#4) {x : F32} (h : AbsLe c.freqLimit x) :
    AbsLe piF x :=
  h.mono (startCheck_of_valid hv 6 (by omega) (by omega)).1.2.2

theorem finiteC_acceptSample_xl {s : State} (h : LoopsBounded s) (x : Cplx) (k : Nat) (hk : k < Config.mfMax) :
    finiteC (acceptSample x s).xl[k] = true := by
  simp only [acceptSample_xl]
  exact finite_shiftIn x h.xl k hk

theorem finiteC_acceptSample_dl {s : State} (h : LoopsBounded s) (x : Cplx) (k : Nat) (hk : k < Config.dlLen) :
    finiteC (acceptSample x s).dl[k] = true := by
  simp only [acceptSample_dl]
  exact finite_shiftIn _ h.dl k hk

/-- Between strobes the phase is wrapped and TAU counts down; the rest stays. -/
theorem loopsBounded_between {s : State} (hc : Configured s) (hr : s.run = true) (h : LoopsBounded s) {x : Cplx}
    (hs : ¬ IsStrobe s) : LoopsBounded (acceptSample x s) := by
  obtain ⟨hv, hact⟩ := hc hr
  obtain ⟨hth, hnu, -⟩ := loops_on_units hv hact h
  obtain ⟨hwrap, hbelow⟩ := theta_advanceNco (s := countedDown x s) hth (absLe_piF_of_freqLimit hv hnu) (by decide)
  obtain ⟨htf, ht0, ht1⟩ := tau_bounds hc hr h
  obtain ⟨htau, hpos⟩ := units_tau_between (tau_bounds_num hc hr h) hs
  have hmax := isFinite_tmax hv hact
  have hone : 0 ≤ units one := by decide
  have hle : units (F32.sub s.tau one) ≤ units s.act.tmax := by omega
  have hge : 0 ≤ units (F32.sub s.tau one) := by omega
  have hfin : isFinite (F32.sub s.tau one) = true := isFinite_of_between hmax (by omega) hle
  have hxl := finiteC_acceptSample_xl h x
  have hdl := finiteC_acceptSample_dl h x
  rw [acceptSample_between hs] at hxl hdl ⊢
  exact
    { xl := hxl
      dl := hdl
      theta := hwrap
      thetaBelow := hbelow
      nu := h.nu
      tacc := h.tacc
      tau := (bounded_zero_iff (isNaN_of_isFinite hmax)).2 ⟨hfin, hge, hle⟩
      mufrac := h.mufrac
      stderr := h.stderr }

/-! ### The bounds through a strobe -/

section
variable {s : State} (hc : Configured s) (hr : s.run = true) (h : LoopsBounded s) (x : Cplx)
include hc hr h

/-- NU is clamped, and the moved phase is wrapped with it (R175, R179). -/
theorem bounds_nu_theta_strobe : AbsLe s.act.regs.freqLimit (strobe (countedDown x s)).nu ∧
    Bounded (F32.neg piF) (advanceNco (strobe (countedDown x s))).theta piF ∧
    F32.lt (advanceNco (strobe (countedDown x s))).theta piF = true := by
  obtain ⟨hv, hact⟩ := hc hr
  obtain ⟨hth, hnu, -⟩ := loops_on_units hv hact h
  have hnu' : AbsLe s.act.regs.freqLimit (strobe (countedDown x s)).nu := absLe_strobe_nu (s := countedDown x s) hv hnu
  have hth' := absLe_strobe_theta (s := countedDown x s) hv hth
  exact ⟨hnu', theta_advanceNco (s := strobe (countedDown x s)) hth' (absLe_piF_of_freqLimit hv hnu') le_rfl⟩

theorem bounds_tacc_strobe : AbsLe s.act.rlim (strobe (countedDown x s)).tacc := by
  obtain ⟨hv, hact⟩ := hc hr
  obtain ⟨-, -, hta⟩ := loops_on_units hv hact h
  rw [strobe_tacc]
  exact absLe_taccUpdate (s := countedDown x s) hv hact hta.1

theorem bounds_tau_strobe (hs : IsStrobe s) :
    FiniteAnd (strobe (countedDown x s)).tau fun u => 0 ≤ u ∧ u ≤ units s.act.tmax := by
  obtain ⟨hv, hact⟩ := hc hr
  obtain ⟨-, -, hta⟩ := loops_on_units hv hact h
  rw [strobe_tau]
  exact refill_bounds (isFinite_tmax hv hact) (units_tau_strobe (tau_bounds_num hc hr h) hs)
    (period_bounds (s := countedDown x s) hv hact hta.1)

theorem bounds_mufrac_strobe (hs : IsStrobe s) :
    FiniteAnd (strobe (countedDown x s)).mufrac fun u => 0 ≤ u ∧ u ≤ units one := by
  rw [strobe_mufrac]
  exact shortfall_bounds (units_tau_strobe (tau_bounds_num hc hr h) hs)

theorem bounds_stderr_strobe : FiniteAnd (strobe (countedDown x s)).stderr fun u => 0 ≤ u ∧ u ≤ units one := by
  rw [(sameExtractor_strobe x s).stderr, extract_stderr]
  exact stderr_updateWindow hc hr ((bounded_zero_iff (by decide)).1 h.stderr) _

/-- A strobe, field by field: the two loops are clamped, TAU gains a period of at least 1.0, the fraction is what TAU was
short of, and the estimate is smoothed. -/
theorem loopsBounded_strobe (hs : IsStrobe s) : LoopsBounded (acceptSample x s) := by
  obtain ⟨hv, hact⟩ := hc hr
  obtain ⟨⟨hff, -⟩, -⟩ := startCheck_of_valid hv 6 (by omega) (by omega)
  obtain ⟨hrf, -⟩ := rlim_bounds hv hact
  obtain ⟨hnu, hwrap, hbelow⟩ := bounds_nu_theta_strobe hc hr h x
  have hxl := finiteC_acceptSample_xl h x
  have hdl := finiteC_acceptSample_dl h x
  rw [acceptSample_strobe hs] at hxl hdl ⊢
  have hact' : (advanceNco (strobe (countedDown x s))).act = s.act := by
    rw [advanceNco_act, strobe_act, countedDown_act]
  refine
    { xl := hxl
      dl := hdl
      theta := hwrap
      thetaBelow := hbelow
      nu := ?_
      tacc := ?_
      tau := ?_
      mufrac := ?_
      stderr := ?_ }
  · rw [hact', advanceNco_nu]
    exact (bounded_symmetric_iff (isNaN_of_isFinite hff)).2 hnu
  · rw [hact', advanceNco_tacc]
    exact (bounded_symmetric_iff (isNaN_of_isFinite hrf)).2 (bounds_tacc_strobe hc hr h x)
  · rw [hact', advanceNco_tau]
    exact (bounded_zero_iff (isNaN_of_isFinite (isFinite_tmax hv hact))).2 (bounds_tau_strobe hc hr h x hs)
  · rw [advanceNco_mufrac]
    exact (bounded_zero_iff (by decide)).2 (bounds_mufrac_strobe hc hr h x hs)
  · rw [advanceNco_stderr]
    exact (bounded_zero_iff (by decide)).2 (bounds_stderr_strobe hc hr h x)

end

/-! ### The step -/

theorem loopsBounded_acceptSample {s : State} (hs : Sound s) (hr : s.run = true) (x : Cplx) :
    LoopsBounded (acceptSample x s) := by
  by_cases h : IsStrobe s
  · exact loopsBounded_strobe hs.control.configured hr (hs.loops hr) x h
  · exact loopsBounded_between hs.control.configured hr (hs.loops hr) h

theorem loopsBounded_effect {i : Instr} {s t : State} (hs : Sound s) (he : Effect s i t) (hr : t.run = true) :
    LoopsBounded t := by
  cases he with
  | accepted re im hrun => exact loopsBounded_acceptSample hs hrun _
  | started clr hv => exact loopsBounded_startedFrom (by rwa [clearIf_cfg])
  | startFailed clr _ => cases hr
  | stopped clr => cases hr
  | _ =>
    have hrun : s.run = true := by simpa using hr
    exact loopsBounded_congr (hs.loops hrun) (by simp) (by simp) (by simp) (by simp) (by simp) (by simp) (by simp)
      (by simp) (by simp)

/-- Settles O57: the control invariants by `stepKeepsControlSound`, the bounds by the effect of the step's transaction. -/
theorem stepKeepsSound : Obligations.StepKeepsSound := by
  intro s t hs h
  refine ⟨stepKeepsControlSound s t hs.control h, fun hr => ?_⟩
  rcases step_effect_cases h with ⟨-, rfl⟩ | ⟨rest, -, rfl⟩ | ⟨w, rest, i, -, -, he⟩
  · exact loopsBounded_congr (hs.loops hr) rfl rfl rfl rfl rfl rfl rfl rfl rfl
  · cases hr
  · have htaken : Sound (takeWord rest s) := ⟨controlSound_takeWord hs.control rest, fun hr =>
      loopsBounded_congr (hs.loops hr) rfl rfl rfl rfl rfl rfl rfl rfl rfl⟩
    exact loopsBounded_effect htaken he hr

end Sys2Proof.Machine
end

section
/-! PROOF. The boot sequence (70_reset_and_hazards.md R283): the writes leave the configuration they carry, in whatever
order they come, and START then latches it. -/

namespace Sys2Proof.Machine

open Sys2Proof.Safety

/-! ### A run over presented transactions -/

theorem run_succ_of_step {M : Host.Core} {s u : M.State} (h : M.step s = .next u) (n : Nat) :
    Host.Core.run M (n + 1) s = Host.Core.run M n u := by
  rw [Host.Core.run, h]

theorem run_of_step {s u : State} (h : step s = .next u) (n : Nat) :
    Host.Core.run Sys2Proof.core (n + 1) s = Host.Core.run Sys2Proof.core n u :=
  run_succ_of_step (M := Sys2Proof.core) h n

/-- A presented, well-formed transaction is performed. -/
theorem step_encode {i : Instr} {s : State} {rest : List Input} (hwf : i.wf = true)
    (hin : s.inbox = .word (encode i) :: rest) : step s = exec i (takeWord rest s) :=
  step_word hin (decodeOfEncodeIsIdentity i hwf)

/-! ### The value of a RW register as a function of the configuration -/

theorem readReg_eq_cfgValue {r : Reg} (hr : r.access = .rw) (s : State) : readReg r s = cfgValue r s.cfg := by
  cases r <;> cases hr <;> rfl

theorem cfgValue_storeCfg_same {r : Reg} (hr : r.access = .rw) (v : Word) (c : CfgRegs) :
    cfgValue r (storeCfg r v c) = v :=
  readReg_storeCfg_same hr v { State.reset with cfg := c }

theorem cfgValue_storeCfg_of_ne {r r' : Reg} (hne : r' ≠ r) (v : Word) (c : CfgRegs) :
    cfgValue r' (storeCfg r v c) = cfgValue r' c :=
  readReg_storeCfg_of_ne hne v { State.reset with cfg := c }

/-- `start` after the registers of `order` were stored, one after the other, with their values in `c`. -/
def storeAll (c : CfgRegs) (order : List Reg) (start : CfgRegs) : CfgRegs :=
  order.foldl (fun acc r => storeCfg r (cfgValue r c) acc) start

/-- A stored register has its value in `c`: a later store of the same register carries the same value. -/
theorem cfgValue_storeAll {c : CfgRegs} {r : Reg} (hr : r.access = .rw) {order : List Reg} {start : CfgRegs}
    (h : r ∈ order ∨ cfgValue r start = cfgValue r c) : cfgValue r (storeAll c order start) = cfgValue r c := by
  induction order generalizing start with
  | nil => exact h.resolve_left List.not_mem_nil
  | cons x xs ih =>
    apply ih
    by_cases hx : r = x
    · subst hx
      exact .inr (cfgValue_storeCfg_same hr _ _)
    · rw [cfgValue_storeCfg_of_ne hx]
      exact h.imp_left fun hm => (List.mem_cons.1 hm).resolve_left hx

/-! ### What the sequence writes -/

theorem mem_tapRegs {k : Fin Config.mfMax} {n : Nat} : Reg.h k ∈ tapRegs n ↔ k.val < n := by
  have hk := k.isLt
  simp only [tapRegs, List.mem_map, Reg.h.injEq, exists_eq_right, List.mem_take_iff_getElem, List.getElem_finRange]
  constructor
  · rintro ⟨j, hj, rfl⟩
    exact (lt_min_iff.1 hj).1
  · exact fun h => ⟨k.val, lt_min_iff.2 ⟨h, hk.trans_eq (List.length_finRange).symm⟩, rfl⟩

theorem access_of_mem_bootTargets {c : CfgRegs} {r : Reg} (h : r ∈ bootTargets c) : r.access = .rw := by
  rcases List.mem_append.1 h with hb | ht
  · exact (by decide : ∀ r ∈ bootRegs, r.access = .rw) r hb
  · obtain ⟨k, -, rfl⟩ := List.mem_map.1 ht
    rfl

/-- The scalar registers are all of a configuration but its taps. -/
theorem cfg_eq_of_bootRegs {c c' : CfgRegs} (h : ∀ r ∈ bootRegs, cfgValue r c' = cfgValue r c) :
    c' = { c with h := c'.h } := by
  cases c
  cases c'
  simpa [bootRegs, cfgValue, readReg] using h

/-- START's checks read the scalar registers and the taps of the filter span, so they read what the sequence writes. -/
theorem valid_of_bootTargets {c c' : CfgRegs} (hv : validate c = 0#4)
    (h : ∀ r ∈ bootTargets c, cfgValue r c' = cfgValue r c) : validate c' = 0#4 := by
  have hcfg : c' = { c with h := c'.h } := cfg_eq_of_bootRegs fun r hr => h r (List.mem_append_left _ hr)
  have htap : ∀ k (hk : k < Config.mfMax), k < c.filterSpan.toNat → c'.h[k] = c.h[k] := fun k hk hspan =>
    h (.h ⟨k, hk⟩) (List.mem_append_right _ (mem_tapRegs.2 hspan))
  rw [validate_eq_zero_iff] at hv ⊢
  intro k h1 h14
  have hk := hv k h1 h14
  rw [hcfg]
  rcases (by omega : k ≤ 13 ∨ k = 14) with hscalar | rfl
  · interval_cases k <;> exact hk
  · intro j hj hspan
    change F32.isFinite c'.h[j] = true
    rw [htap j hj hspan]
    exact hk j hj hspan

/-! ### The sequence, part by part -/

theorem wf_write {r : Reg} (hr : r.access = .rw) (v : Word) : (Instr.write r.addr v).wf = true := by
  have hne : r.addr ≠ 0#12 := fun h => by
    rw [(access_wo_iff_addr (regAt_addr r)).2 h] at hr
    cases hr
  simpa [Instr.wf] using hne

/-- The writes store each register and take their words; nothing else is asked of them. -/
theorem run_bootWrites (c : CfgRegs) (n : Nat) {rest : List Input} {order : List Reg}
    (hrw : ∀ r ∈ order, r.access = .rw) {s : State}
    (hin : s.inbox = (bootWrites order c).map (fun i => .word (encode i)) ++ rest) :
    ∃ u : State, u.inbox = rest ∧ u.cfg = storeAll c order s.cfg ∧
      Host.Core.run Sys2Proof.core ((bootWrites order c).length + n) s = Host.Core.run Sys2Proof.core n u := by
  induction order generalizing s with
  | nil => exact ⟨s, hin, rfl, by simp [bootWrites]⟩
  | cons r rs ih =>
    have hr := hrw r List.mem_cons_self
    have hstep := step_encode (wf_write hr (cfgValue r c)) hin
    rw [exec_write, memWrite_of_rw (regAt_addr r) hr] at hstep
    obtain ⟨u, hu, hcfg, hrun⟩ := ih (fun x hx => hrw x (List.mem_cons_of_mem r hx)) 
      (s := { takeWord _ s with cfg := storeCfg r (cfgValue r c) s.cfg }) rfl
    refine ⟨u, hu, hcfg, ?_⟩
    have hlen : (bootWrites (r :: rs) c).length + n = (bootWrites rs c).length + n + 1 := Nat.add_right_comm _ 1 n
    rw [hlen]
    exact (run_of_step hstep _).trans hrun

/-- The optional CLR keeps the configuration. -/
theorem run_optionalClr (clr : Bool) (n : Nat) {rest : List Input} {s : State}
    (hin : s.inbox = (if clr then [Instr.ctrlNone true] else []).map (fun i => .word (encode i)) ++ rest) :
    ∃ u : State, u.inbox = rest ∧ u.cfg = s.cfg ∧
      Host.Core.run Sys2Proof.core ((if clr then [Instr.ctrlNone true] else []).length + n) s =
        Host.Core.run Sys2Proof.core n u := by
  cases clr with
  | false => exact ⟨s, hin, rfl, by simp⟩
  | true =>
    have hstep : step s = .next (clearIf true (takeWord rest s)) := step_encode (i := .ctrlNone true) rfl hin
    exact ⟨clearIf true (takeWord rest s), rfl, rfl, by rw [← run_of_step hstep, Nat.add_comm]; rfl⟩

/-- START latches a valid configuration, and STATUS is then answered with RUN = 1 and CFG_ERR = 0. -/
theorem run_start_read {s : State} (hv : validate s.cfg = 0#4)
    (hin : s.inbox = [Instr.ctrlStart false, .read Reg.status.addr].map fun i => .word (encode i)) :
    ∃ t w, Host.Core.run Sys2Proof.core 2 s = .next t ∧ t.run = true ∧ t.cfgErr = false ∧ t.inbox = [] ∧
      t.act.regs = s.cfg ∧ t.result = .response w ∧ w.getLsbD 0 = true ∧ w.getLsbD 3 = false := by
  have hstart := step_encode (i := .ctrlStart false) rfl hin
  rw [exec_ctrlStart, clearIf_false, start_of_valid (by exact hv)] at hstart
  generalize hu : startedFrom _ = u at hstart
  have hread := step_encode (i := .read Reg.status.addr) (s := u) (rest := []) rfl (by rw [← hu]; rfl)
  rw [exec_read_of_some (regAt_addr .status)] at hread
  obtain ⟨hbit0, -, -, hbit3, -⟩ := statusWord_getLsbD (takeWord [] u)
  rw [run_of_step hstart, run_of_step hread]
  subst hu
  exact ⟨_, _, rfl, rfl, rfl, rfl, rfl, rfl, hbit0, hbit3⟩

/-- Settles O59: the writes in any order, then the optional CLR, then START and the read. -/
theorem bootSequenceStartsTheBlock : Obligations.BootSequenceStartsTheBlock := by
  intro s c order clr hv hperm hin
  have hrw : ∀ r ∈ order, r.access = .rw := fun r hr => access_of_mem_bootTargets (hperm.mem_iff.1 hr)
  rw [bootSequence, List.map_append, List.map_append, List.append_assoc] at hin
  obtain ⟨u, hu, hcfg, hwrites⟩ := run_bootWrites c _ hrw hin
  obtain ⟨v, hv', hcfg', hclr⟩ := run_optionalClr clr 2 hu
  have hvalue : ∀ r ∈ bootTargets c, cfgValue r v.cfg = cfgValue r c := fun r hr => by
    rw [hcfg', hcfg]
    exact cfgValue_storeAll (access_of_mem_bootTargets hr) (.inl (hperm.mem_iff.2 hr))
  obtain ⟨t, w, hrun, ht, herr, hbox, hact, hanswer⟩ := run_start_read (valid_of_bootTargets hv hvalue) hv'
  refine ⟨t, w, ?_, ht, herr, hbox, fun r hr => ?_, hanswer⟩
  · rw [← hrun, ← hclr, ← hwrites, bootSequence, List.length_append, List.length_append, Nat.add_assoc]
    rfl
  · rw [readReg_eq_cfgValue (access_of_mem_bootTargets hr), hact]
    exact hvalue r hr

end Sys2Proof.Machine
end
